-- ==== Sys2Proof/Word.lean ====
section
/-! DEFINITION. The word and byte types of the BitPacking block (R7, R8 of 00_scope.md, R22 of 10_state.md). -/

namespace Sys2Proof

/-- A register value or a command word: 32 bits, bit 0 the least significant (R8, R22). -/
abbrev Word := BitVec 32

/-- A data-memory byte: an 8-bit unsigned value (R7, R60). -/
abbrev Byte := BitVec 8

/-- The source's BitSequence (R13): element 0 first, `true` for the Bit 1. -/
abbrev BitSeq := List Bool

end Sys2Proof
end

