-- ==== Sys2Proof/Config.lean ====
section
/-! DEFINITION. The implementation parameters of R6 of 00_scope.md, and the free values. An `opaque`
constant has no value any proof can see: what is shown of it holds for every value. -/

namespace Sys2Proof

/-- `REG_WINDOW`: the register window's size in bytes (R6, R61). -/
abbrev Config.regWindow : Nat := 0x100

/-- `ADDR_W`: the width of a data-memory address (R6). -/
abbrev Config.addrWidth : Nat := 32

/-- `MAX_LEN`: the largest element count an operand length register holds (R6). -/
abbrev Config.maxLen : Nat := 2 ^ 32 - 1

/-- `REG_BASE`, OPEN: the host address of the register window (R6, D3). -/
opaque Config.regBase : Nat

/-- `MEM_SIZE`, OPEN, at most 2^32: the number of bytes of data memory (R6, D5). It is what
`State.reset` holds in `memSize`; the meanings read the field, never this constant (log entry 2). -/
opaque Config.memSize : Fin (2 ^ 32 + 1)

/-- `mem` at launch, OPEN (R60, R251, D39, I9): the byte each data-memory address holds, any value. It is
what `State.reset` holds at the addresses below MEM_SIZE (log entry 1). -/
opaque Config.launchByte : Nat → Byte

/-- FREE VALUE (log entry 11): the n-th draw of a byte that a reset of a busy block leaves (R252). -/
opaque Config.freeByte : Nat → Byte

/-- FREE VALUE (log entry 5): how many host actions may come between the accept of a command and its
core step, drawn anew at every accept. It is some number, so the core step always comes: the weak
fairness of R262. -/
opaque Config.coreDelay : Nat → Nat

end Sys2Proof
end

