-- ==== Sys2Proof/Machine/Launch.lean ====
section
/-! DEFINITION. What data memory holds at launch: the bytes of a launch parameter (R60 of 20_memory.md, R251
of 70_reset_and_hazards.md), as the canonical list of cells. -/

namespace Sys2Proof.Machine

open Sys2Proof

/-- What an address that is not listed holds. It is the form's, not the machine's: every memory has exactly
one list of this form (log entry 18). -/
abbrev unlistedByte : Byte := 0x00

/-- The memory that holds `byte a` at each address `a` below `size` (R60). -/
def launchMemory (size : Nat) (byte : Nat → Byte) : List Host.Cell :=
  ((List.range size).map fun a => (a, byte a)).filter fun c => c.2 ≠ unlistedByte

end Sys2Proof.Machine
end

