-- ==== Sys2Proof/Syntax.lean ====
section
/-! DEFINITION. What the block is told: its ten commands (R82 of 30_encoding.md), the names of its
registers (R22 of 10_state.md), the host's bus actions (R100 of 40_command_cycle.md) and the host
program notation (R86, R87). -/

namespace Sys2Proof

/-- The ten commands, one per row of spec/opcode_table.json, in its order. A command word carries no
operand (R81, R83). -/
inductive Instr where
  /-- 0x01 `BYTETOBITS`, R130. -/
  | bytetobits
  /-- 0x02 `BITSTOBYTE`, R132. -/
  | bitstobyte
  /-- 0x03 `BYTESTOBITS`, R134. -/
  | bytestobits
  /-- 0x04 `BITSTOBYTES`, R136. -/
  | bitstobytes
  /-- 0x05 `EXTRACTLSB`, R138. -/
  | extractlsb
  /-- 0x06 `LENHDRBITS`, R140. -/
  | lenhdrbits
  /-- 0x07 `BUILDFRAME`, R163. -/
  | buildframe
  /-- 0x08 `PARSEHEADER`, R165. -/
  | parseheader
  /-- 0x09 `EMBED`, R181. -/
  | embed
  /-- 0x0A `EXTRACT`, R201. -/
  | extract
  deriving DecidableEq, Repr

/-- The 16 registers of R22, by their names there. -/
inductive RegName where
  | ctrl | cmd | status | arg | srcAddr | srcLen | bufAddr | bufLen
  | dstAddr | dstLen | res0 | res1 | res2 | errReqLo | errReqHi | errAvail
  deriving DecidableEq, Repr

/-- One host action: a row of R100. A host load or store of several bytes of data memory (R66) is one byte
action per address, in the order the host makes them, and a core step may come between two of them (the
model's choice, log entry 20). `offset` is a byte offset in the 0x100-byte register window, `bits`
the width of the bus access. -/
inductive HostAction where
  /-- A register read (R101), or HOST_ACCESS when it is not a 32-bit aligned one (R62). -/
  | regRead (bits : Nat) (offset : BitVec 8)
  /-- A register write (R102, R103), or HOST_ACCESS (R62). -/
  | regWrite (bits : Nat) (offset : BitVec 8) (value : Word)
  /-- A read of one data-memory byte (R72, R74). -/
  | memRead (addr : Nat)
  /-- A write of one data-memory byte (R72, R74). -/
  | memWrite (addr : Nat) (value : Byte)
  /-- Assert reset (R250). -/
  | assertReset
  /-- `WAIT` of R87: read `STATUS`, again and again, until the value read has bit 0 (`BUSY`) clear. -/
  | waitIdle
  deriving DecidableEq, Repr

/-- A host statement (R86) or pseudo-instruction (R87). -/
inductive HostStmt where
  /-- `WR <reg>, <imm32>`. -/
  | wr (r : RegName) (v : Word)
  /-- `RD <reg>`. -/
  | rd (r : RegName)
  /-- `MEMW <addr>, <b0>, <b1>, ...`. -/
  | memw (addr : Nat) (bytes : List Byte)
  /-- `MEMR <addr>, <n>`. -/
  | memr (addr : Nat) (n : Nat)
  /-- `CMD <mnemonic>`. -/
  | cmd (i : Instr)
  /-- `WAIT`. -/
  | wait
  /-- `HDRW8`. -/
  | hdrw8
  /-- `HDRW32`. -/
  | hdrw32
  /-- `SETSRC <a>, <l>`. -/
  | setsrc (a l : Word)
  /-- `SETBUF <a>, <l>`. -/
  | setbuf (a l : Word)
  /-- `SETDST <a>, <l>`. -/
  | setdst (a l : Word)
  deriving DecidableEq, Repr

end Sys2Proof
end

