-- ==== Sys2Proof/Machine/State.lean ====
section
/-! DEFINITION. The state of the machine (R21, R22 of 10_state.md), why a step can stop, and the state
after reset (R250, R251 of 70_reset_and_hazards.md). -/

namespace Sys2Proof.Machine

open Sys2Proof

/-- Data memory (R60): the bytes that are not 0x00, by address. `Memory.wf` (Ops.lean) is its canonical
form; an address that is not listed holds 0x00 (log entry 18). -/
abbrev Memory := List Host.Cell

/-- The two reasons of the model-only mark `fault` (R232). -/
inductive FaultMark where
  /-- A host register access that is not 32-bit or not 4-byte aligned (R62). -/
  | hostAccess
  /-- A host data-memory access inside a region the pending command owns (R74). -/
  | hostRace
  deriving DecidableEq, Repr

/-- Why the machine stops with no next state. No command's meaning raises one of these: the error codes
of R220 are next states. -/
inductive Fault where
  /-- Raised by the step of a state whose `fault` mark is set, when the host has no action left: the core
  step is blocked for good and the state is never final (R104, R114, R232). Safe: the model stops
  where the device may go on. -/
  | marked (m : FaultMark)
  /-- Raised by a host access to data memory at or beyond MEM_SIZE, an address that does not exist
  (R60). Safe: the model stops where a bus may answer something. -/
  | noSuchAddress
  deriving DecidableEq, Repr

/-- Why a step is refused. -/
inductive Refusal where
  /-- An instruction with no meaning yet; raised by an arm of `exec` only. Every instruction has its
  meaning, so nothing raises it. Safe. -/
  | notModelled (mnemonic : String)
  deriving DecidableEq, Repr

/-- The machine: the register file, data memory and the fault mark of R21, and then the model's own
fields (log entries 2, 4, 5 and 13). -/
structure State where
  /-- `CTRL`, R23. -/
  ctrl : Word
  /-- `CMD`, R25; the pending command while BUSY = 1 (R44). -/
  cmd : Word
  /-- `STATUS`, R26. -/
  status : Word
  /-- `ARG`, R31. -/
  arg : Word
  /-- `SRC_ADDR`, R32. -/
  srcAddr : Word
  /-- `SRC_LEN`, R32. -/
  srcLen : Word
  /-- `BUF_ADDR`, R33. -/
  bufAddr : Word
  /-- `BUF_LEN`, R33. -/
  bufLen : Word
  /-- `DST_ADDR`, R34. -/
  dstAddr : Word
  /-- `DST_LEN`, R34. -/
  dstLen : Word
  /-- `RES0`, R35. -/
  res0 : Word
  /-- `RES1`, R35. -/
  res1 : Word
  /-- `RES2`, R35. -/
  res2 : Word
  /-- `ERR_REQ_LO`, R36. -/
  errReqLo : Word
  /-- `ERR_REQ_HI`, R36. -/
  errReqHi : Word
  /-- `ERR_AVAIL`, R37. -/
  errAvail : Word
  /-- Data memory, R60. -/
  mem : Memory
  /-- `MEM_SIZE`, R6: fixed for the machine, no step changes it (log entry 2). -/
  memSize : Nat
  /-- The mark of R21 and R232, never cleared. -/
  fault : Option FaultMark
  /-- The host's remaining actions, the next first (log entry 4). -/
  hostQueue : List HostAction
  /-- How many host actions may still come before the pending command's core step (log entry 5). -/
  coreWait : Nat
  /-- The counter the free values are drawn with (log entries 5 and 11). -/
  draws : Nat
  /-- The value the host's last read returned, a byte zero-extended (log entry 13). -/
  readData : Word
  deriving DecidableEq, Repr

/-- Right after reset (R250, R251): `CTRL` selects the 32-bit header, every other register is 0, and
`fault` is empty (R21). Memory holds the launch parameter's bytes, any values (R60, R251, log entry 1), and
MEM_SIZE is a parameter too (R6, log entry 2). The last four fields are the model's own: no host action is
pending. -/
def State.reset : State where
  ctrl := 0x00000001
  cmd := 0
  status := 0
  arg := 0
  srcAddr := 0
  srcLen := 0
  bufAddr := 0
  bufLen := 0
  dstAddr := 0
  dstLen := 0
  res0 := 0
  res1 := 0
  res2 := 0
  errReqLo := 0
  errReqHi := 0
  errAvail := 0
  mem := launchMemory Config.memSize.val Config.launchByte
  memSize := Config.memSize.val
  fault := none
  hostQueue := []
  coreWait := 0
  draws := 0
  readData := 0

end Sys2Proof.Machine
end

