-- ==== Sys2Proof/Machine/Flags.lean ====
section
/-! DEFINITION. The fields of `STATUS` (R26 to R30 of 10_state.md), what a completion and an accept do to
them (R102, R106, R107 of 40_command_cycle.md), and the error codes (R220 of 60_exceptions.md). -/

namespace Sys2Proof.Machine

open Sys2Proof

/-- `STATUS.BUSY`, bit 0 (R26, R27). -/
def statusBusy (w : Word) : Bool := w.getLsbD 0

/-- `STATUS.DONE`, bit 1 (R26, R28). -/
def statusDone (w : Word) : Bool := w.getLsbD 1

/-- `STATUS.WBUSY`, bit 2 (R26, R29). -/
def statusWbusy (w : Word) : Bool := w.getLsbD 2

/-- `STATUS.ERR`, bits 15:8 (R26, R30). -/
def statusErr (w : Word) : BitVec 8 := w.extractLsb' 8 8

/-- The bits of `STATUS` that no field holds, 7:3 and 31:16 (R26). -/
def statusReservedMask : Word := 0xFFFF00F8

/-- Write one bit of a status word, the others unchanged. -/
def setStatusBit (i : Nat) (b : Bool) (w : Word) : Word :=
  if b then w ||| 1#32 <<< i else w &&& ~~~(1#32 <<< i)

/-- `STATUS.BUSY <- b`. -/
def setStatusBusy (b : Bool) (w : Word) : Word := setStatusBit 0 b w

/-- `STATUS.DONE <- b`. -/
def setStatusDone (b : Bool) (w : Word) : Word := setStatusBit 1 b w

/-- `STATUS.WBUSY <- b`. -/
def setStatusWbusy (b : Bool) (w : Word) : Word := setStatusBit 2 b w

/-- `STATUS.ERR <- c`. -/
def setStatusErr (c : BitVec 8) (w : Word) : Word :=
  w &&& ~~~0x0000FF00#32 ||| c.setWidth 32 <<< 8

/-- What an accepted command does to `STATUS` (R102). -/
def acceptStatus (w : Word) : Word :=
  setStatusErr 0x00 (setStatusWbusy false (setStatusDone false (setStatusBusy true w)))

/-- What a completion with error code `c` does to `STATUS`; success is code 0x00 (R106, R107). -/
def completeStatus (c : BitVec 8) (w : Word) : Word :=
  setStatusDone true (setStatusBusy false (setStatusErr c w))

/-- An error of a command, with the `req` and `avail` of the three codes that record them (R11, R107). -/
inductive CmdError where
  /-- `E_CAPACITY`. -/
  | capacity (req : Nat) (avail : Word)
  /-- `E_EXTRACT`. -/
  | extract (req : Nat) (avail : Word)
  /-- `E_ILLEGAL`. -/
  | illegal
  /-- `E_RANGE`. -/
  | range
  /-- `E_OVERLAP`. -/
  | overlap
  /-- `E_LEN`. -/
  | len
  /-- `E_ARG`. -/
  | arg
  /-- `E_HDR_OVF`. -/
  | hdrOvf
  /-- `E_DST_SMALL`. -/
  | dstSmall (req : Nat) (avail : Word)
  /-- `E_BADBIT`. -/
  | badBit
  deriving DecidableEq, Repr

/-- The code written to `STATUS.ERR` (R220). -/
def errorCode (e : CmdError) : BitVec 8 :=
  match e with
  | .capacity _ _ => 0x01
  | .extract _ _ => 0x02
  | .illegal => 0x03
  | .range => 0x04
  | .overlap => 0x05
  | .len => 0x06
  | .arg => 0x07
  | .hdrOvf => 0x08
  | .dstSmall _ _ => 0x09
  | .badBit => 0x0A

/-- The lengths an error records in `ERR_REQ` and `ERR_AVAIL`, if it records any (R107, R220). -/
def errorLengths (e : CmdError) : Option (Nat × Word) :=
  match e with
  | .capacity req avail => some (req, avail)
  | .extract req avail => some (req, avail)
  | .dstSmall req avail => some (req, avail)
  | .illegal => none
  | .range => none
  | .overlap => none
  | .len => none
  | .arg => none
  | .hdrOvf => none
  | .badBit => none

end Sys2Proof.Machine
end

