-- ==== Sys2Proof/Machine/Ops.lean ====
section
/-! DEFINITION. The named operations over data memory and the registers: byte reads and writes (R63 of
20_memory.md), register reads and writes (R101, R103 of 40_command_cycle.md), the accept of a command
(R102), and its two completions, `finish` (R106) and `raise` (R107). -/

namespace Sys2Proof.Machine

open Sys2Proof

/-! ## Data memory -/

/-- The canonical form: addresses strictly rising, no cell equal to what an unlisted address reads as. -/
abbrev Memory.wf (m : Memory) : Prop :=
  m.Pairwise (fun x y => x.1 < y.1) ∧ ∀ c ∈ m, c.2 ≠ unlistedByte

/-- `MemRead(a, 1)` (R11, R63). -/
def Memory.read (m : Memory) (a : Nat) : Byte :=
  match m with
  | [] => unlistedByte
  | (k, v) :: rest => if a = k then v else Memory.read rest a

/-- `MemWrite(a, 1, v)` (R11, R63), keeping the canonical form. -/
def Memory.write (m : Memory) (a : Nat) (v : Byte) : Memory :=
  match m with
  | [] => if v = unlistedByte then [] else [(a, v)]
  | (k, u) :: rest =>
    if a < k then (if v = unlistedByte then (k, u) :: rest else (a, v) :: (k, u) :: rest)
    else if a = k then (if v = unlistedByte then rest else (a, v) :: rest)
    else (k, u) :: Memory.write rest a v

/-- The byte sequence of length `n` at address `a` (R12). -/
def Memory.readAll (m : Memory) (a n : Nat) : List Byte :=
  (List.range n).map fun k => Memory.read m (a + k)

/-- Write a byte sequence at address `a`, in increasing index order (R12, R75). -/
def Memory.writeAll (m : Memory) (a : Nat) (bytes : List Byte) : Memory :=
  match bytes with
  | [] => m
  | b :: bs => Memory.writeAll (Memory.write m a b) (a + 1) bs

/-! ## Registers -/

/-- The register's byte offset from REG_BASE (R22). -/
def regOffset (r : RegName) : BitVec 8 :=
  match r with
  | .ctrl => 0x00
  | .cmd => 0x04
  | .status => 0x08
  | .arg => 0x0C
  | .srcAddr => 0x10
  | .srcLen => 0x14
  | .bufAddr => 0x18
  | .bufLen => 0x1C
  | .dstAddr => 0x20
  | .dstLen => 0x24
  | .res0 => 0x28
  | .res1 => 0x2C
  | .res2 => 0x30
  | .errReqLo => 0x34
  | .errReqHi => 0x38
  | .errAvail => 0x3C

/-- The register at an offset; none at a reserved one (R22, R38). -/
def regAt (offset : BitVec 8) : Option RegName :=
  match offset.toNat with
  | 0x00 => some .ctrl
  | 0x04 => some .cmd
  | 0x08 => some .status
  | 0x0C => some .arg
  | 0x10 => some .srcAddr
  | 0x14 => some .srcLen
  | 0x18 => some .bufAddr
  | 0x1C => some .bufLen
  | 0x20 => some .dstAddr
  | 0x24 => some .dstLen
  | 0x28 => some .res0
  | 0x2C => some .res1
  | 0x30 => some .res2
  | 0x34 => some .errReqLo
  | 0x38 => some .errReqHi
  | 0x3C => some .errAvail
  | _ => none

/-- The current value of a register (R101). -/
def State.readReg (s : State) (r : RegName) : Word :=
  match r with
  | .ctrl => s.ctrl
  | .cmd => s.cmd
  | .status => s.status
  | .arg => s.arg
  | .srcAddr => s.srcAddr
  | .srcLen => s.srcLen
  | .bufAddr => s.bufAddr
  | .bufLen => s.bufLen
  | .dstAddr => s.dstAddr
  | .dstLen => s.dstLen
  | .res0 => s.res0
  | .res1 => s.res1
  | .res2 => s.res2
  | .errReqLo => s.errReqLo
  | .errReqHi => s.errReqHi
  | .errAvail => s.errAvail

/-- A 32-bit aligned read at an offset: the register's value, or 0 at a reserved offset (R101, R38). -/
def State.readOffset (s : State) (offset : BitVec 8) : Word :=
  match regAt offset with
  | some r => s.readReg r
  | none => 0

/-- `STATUS.BUSY` of the state. -/
def State.busy (s : State) : Bool := statusBusy s.status

/-- The header width `w` that `CTRL.HDRW` selects (R23, R24). -/
def State.headerWidth (s : State) : Nat := if s.ctrl.getLsbD 0 then 32 else 8

/-- Command accept (R102): what the host's write of `v` to `CMD` while idle does. The word is not checked
here. How long the core waits is drawn anew (log entry 5). -/
def State.accept (v : Word) (s : State) : State :=
  { s with
    cmd := v
    status := acceptStatus s.status
    coreWait := Config.coreDelay s.draws
    draws := s.draws + 1 }

/-- An idle write to a register: a command, a stored value, or nothing for a read-only one (R103, R39);
`CTRL` takes only `v[0]` (R23). -/
def State.storeReg (r : RegName) (v : Word) (s : State) : State :=
  match r with
  | .ctrl => { s with ctrl := v &&& 1 }
  | .cmd => s.accept v
  | .status => s
  | .arg => { s with arg := v }
  | .srcAddr => { s with srcAddr := v }
  | .srcLen => { s with srcLen := v }
  | .bufAddr => { s with bufAddr := v }
  | .bufLen => { s with bufLen := v }
  | .dstAddr => { s with dstAddr := v }
  | .dstLen => { s with dstLen := v }
  | .res0 => s
  | .res1 => s
  | .res2 => s
  | .errReqLo => s
  | .errReqHi => s
  | .errAvail => s

/-- A 32-bit aligned write at an offset (R102, R103): dropped with WBUSY set while busy, at every offset;
while idle it reaches the register, and is ignored at a reserved offset (R38). -/
def State.writeOffset (offset : BitVec 8) (v : Word) (s : State) : State :=
  if s.busy then { s with status := setStatusWbusy true s.status }
  else match regAt offset with
    | some r => s.storeReg r v
    | none => s

/-- Set the mark `fault` (R232); nothing else changes (R62, log entry 10). -/
def State.markFault (m : FaultMark) (s : State) : State := { s with fault := some m }

/-- Every register to its reset value (R250, R22); nothing else. -/
def State.resetRegs (s : State) : State :=
  { s with
    ctrl := 0x00000001
    cmd := 0
    status := 0
    arg := 0
    srcAddr := 0
    srcLen := 0
    bufAddr := 0
    bufLen := 0
    dstAddr := 0
    dstLen := 0
    res0 := 0
    res1 := 0
    res2 := 0
    errReqLo := 0
    errReqHi := 0
    errAvail := 0 }

/-! ## Completion of a command -/

/-- `finish(r0, r1, r2)` (R106), with the memory the command left. Each result is below 2^32, but for
PARSEHEADER's RES1, which is taken modulo 2^32 (R40). -/
def State.finish (mem : Memory) (r0 r1 r2 : Nat) (s : State) : State :=
  { s with
    mem := mem
    res0 := BitVec.ofNat 32 r0
    res1 := BitVec.ofNat 32 r1
    res2 := BitVec.ofNat 32 r2
    status := completeStatus 0x00 s.status }

/-- `raise E_X(req, avail)` (R107): taking an error. It completes the command; no memory byte and no
result register is written. There is no return from an error: the next accept clears it (R225). -/
def State.raise (e : CmdError) (s : State) : State :=
  match errorLengths e with
  | some (req, avail) =>
    { s with
      status := completeStatus (errorCode e) s.status
      errReqLo := BitVec.ofNat 32 (req % 2 ^ 32)
      errReqHi := BitVec.ofNat 32 (req / 2 ^ 32)
      errAvail := avail }
  | none => { s with status := completeStatus (errorCode e) s.status }

/-- How a command's body ends (R11): one of the two completions. -/
inductive Completion where
  /-- `finish(r0, r1, r2)`, with the memory the body left. -/
  | finish (mem : Memory) (r0 r1 r2 : Nat)
  /-- `raise e`. -/
  | raise (e : CmdError)
  deriving DecidableEq, Repr

/-- End the command as its body says (R106, R107). -/
def State.complete (c : Completion) (s : State) : State :=
  match c with
  | .finish mem r0 r1 r2 => s.finish mem r0 r1 r2
  | .raise e => s.raise e

/-- The state in which the command word `w` has been accepted and its core step is next: what the host's
write to `CMD` leaves (R102), with no wait left and no fault mark, since the core has a step exactly
when BUSY = 1 and `fault` is empty (R104). -/
def State.placeCommand (w : Word) (s : State) : State :=
  { s with cmd := w, status := acceptStatus s.status, fault := none, coreWait := 0 }

end Sys2Proof.Machine
end

