-- ==== Sys2Proof/Machine/BitFunctions.lean ====
section
/-! DEFINITION. The functions on values that the commands compute: R120 to R126 of 41_bitpacking.md, R160
and R161 of 42_framecodec.md, R180 of 43_embedder.md and R200 of 44_extractor.md. -/

namespace Sys2Proof.Machine

open Sys2Proof

/-- The value of a Bit, 0 or 1 (R13). -/
def bitValue (b : Bool) : Nat := if b then 1 else 0

/-- A Bit's cell in memory, 0x00 or 0x01 (R12). -/
def bitCell (b : Bool) : Byte := if b then 0x01 else 0x00

/-- The Bit a cell of 0x00 or 0x01 stands for (R12); a byte's parity in general (R13). -/
def cellBit (c : Byte) : Bool := c.toNat % 2 == 1

/-- The cells of a BitSequence, one element per byte (R12). -/
def bitCells (s : BitSeq) : List Byte := s.map bitCell

/-- `lengthHeaderBits(n, width)` (R125): element i is `floor(n / 2^(width-1-i)) mod 2`. -/
def lengthHeaderBits (n width : Nat) : BitSeq :=
  (List.range width).map fun i => n / 2 ^ (width - 1 - i) % 2 == 1

/-- `byteToBits(b)` (R120): element i is `floor(b / 2^(7-i)) mod 2`. -/
def byteToBits (b : Byte) : BitSeq :=
  (List.range 8).map fun i => b.toNat / 2 ^ (7 - i) % 2 == 1

/-- `headerValue(h)` (R160): the sum of `h[i] × 2^(width-1-i)`, element 0 the most significant. -/
def headerValue (h : BitSeq) : Nat :=
  match h with
  | [] => 0
  | b :: bs => bitValue b * 2 ^ bs.length + headerValue bs

/-- `bitsToByte(s)` (R121), for a BitSequence of length 8: the sum of `s[i] × 2^(7-i)`. -/
def bitsToByte (s : BitSeq) : Byte := BitVec.ofNat 8 (headerValue s)

/-- `bytesToBits(B)` (R122). -/
def bytesToBits (bytes : List Byte) : BitSeq := bytes.flatMap byteToBits

/-- `bitsToBytes(s)` (R123): element j is `bitsToByte(s[8j .. 8j+8])`; a trailing partial group is
dropped. -/
def bitsToBytes (s : BitSeq) : List Byte :=
  (List.range (s.length / 8)).map fun j => bitsToByte ((s.drop (8 * j)).take 8)

/-- `extractLsb(B)` (R124): each byte's parity. -/
def extractLsb (bytes : List Byte) : BitSeq := bytes.map cellBit

/-- `isBitSeq(s)` (R126): every cell is 0 or 1. -/
def isBitSeq (cells : List Byte) : Bool := cells.all fun c => c == 0x00 || c == 0x01

/-- `buildFrame(P, w)` (R161, R163): the header of the payload's bit length, then the payload's bits. -/
def buildFrame (payload : List Byte) (w : Nat) : BitSeq :=
  lengthHeaderBits (8 * payload.length) w ++ bytesToBits payload

/-- A carrier byte whose parity disagrees with the frame bit it is to hold (R180). -/
def parityDiffers (b : Byte) (bit : Bool) : Bool := cellBit b != bit

/-- One carrier byte made to hold a frame bit (R180): `+1` on an even byte, `-1` on an odd one, only when
its parity disagrees. -/
def embedByte (b : Byte) (bit : Bool) : Byte :=
  if bit && b.toNat % 2 == 0 then b + 1
  else if !bit && b.toNat % 2 == 1 then b - 1
  else b

/-- `embedBits(B, fr)` (R180): bytes beyond the frame are untouched. -/
def embedBits (carrier : List Byte) (frame : BitSeq) : List Byte :=
  match carrier, frame with
  | b :: bs, f :: fs => embedByte b f :: embedBits bs fs
  | bs, [] => bs
  | [], _ :: _ => []

/-- The loop of EMBED (R181): the frame's bits into the bytes from address `a` on, in place, a byte whose
parity agrees not written; with the count `c` of bytes changed. -/
def embedLoop (frame : BitSeq) (a : Nat) (m : Memory) : Memory × Nat :=
  match frame with
  | [] => (m, 0)
  | f :: fs =>
    if parityDiffers (Memory.read m a) f then
      ((embedLoop fs (a + 1) (Memory.write m a (embedByte (Memory.read m a) f))).1,
       (embedLoop fs (a + 1) (Memory.write m a (embedByte (Memory.read m a) f))).2 + 1)
    else embedLoop fs (a + 1) m

/-- `L` of R165 and R201: the header value of the first `w` carrier bytes. -/
def carrierHeader (carrier : List Byte) (w : Nat) : Nat :=
  headerValue (extractLsb (carrier.take w))

/-- `extractPayload(B, w)` (R200), where it is defined: `bitsToBytes(extractLsb(B[w .. w+L]))`. -/
def extractPayload (carrier : List Byte) (w : Nat) : List Byte :=
  bitsToBytes (extractLsb ((carrier.drop w).take (carrierHeader carrier w)))

end Sys2Proof.Machine
end

