-- ==== Sys2Proof/WellFormed.lean ====
section
/-! DEFINITION. What is well formed: a command word (R82, R84 of 30_encoding.md), a command, and a host
register access (R62 of 20_memory.md). Every check is a Bool. -/

namespace Sys2Proof

/-- `word[31:8] = 0`: the reserved field is clear (R81, R84). -/
def reservedClear (w : Word) : Bool := w >>> 8 == 0

/-- `word[7:0]` is 0x01 to 0x0A: the opcode is assigned (R82, R84). -/
def opcodeAssigned (w : Word) : Bool := 0x01 ≤ (w.setWidth 8).toNat && (w.setWidth 8).toNat ≤ 0x0A

/-- The words that select a command (R82). Every other word is illegal (R84). -/
def wordWellFormed (w : Word) : Bool := reservedClear w && opcodeAssigned w

/-- A command has no register-number, immediate or mode field (R81), so there is no operand a command
could have wrong: every one is well formed. What can be ill formed is its word, above. -/
def Instr.wellFormed (i : Instr) : Bool :=
  match i with
  | .bytetobits => true
  | .bitstobyte => true
  | .bytestobits => true
  | .bitstobytes => true
  | .extractlsb => true
  | .lenhdrbits => true
  | .buildframe => true
  | .parseheader => true
  | .embed => true
  | .extract => true

/-- A host register access is a 32-bit access (R62). -/
def accessWidthOk (bits : Nat) : Bool := bits == 32

/-- A host register access is at a multiple of 4 (R62). -/
def accessAligned (offset : BitVec 8) : Bool := offset.toNat % 4 == 0

/-- The host register accesses the block defines (R62). -/
def regAccessWellFormed (bits : Nat) (offset : BitVec 8) : Bool :=
  accessWidthOk bits && accessAligned offset

end Sys2Proof
end

