-- ==== Sys2Proof/Decode.lean ====
section
/-! DEFINITION. The decoder of R85 of 30_encoding.md, total on all 2^32 words, and the encoder, both
from the opcode map of R82. -/

namespace Sys2Proof

/-- Why a word is `Illegal` (R84). -/
inductive DecodeError where
  /-- `word[31:8] != 0`. -/
  | reservedBitsSet
  /-- `word[31:8] = 0` and `OPC` is 0x00 or 0x0B to 0xFF. -/
  | opcodeUnassigned
  deriving DecidableEq, Repr

/-- `decode` of R85. -/
def decode (w : Word) : Except DecodeError Instr :=
  if w >>> 8 ≠ 0 then .error .reservedBitsSet
  else match (w.setWidth 8).toNat with
    | 0x01 => .ok .bytetobits
    | 0x02 => .ok .bitstobyte
    | 0x03 => .ok .bytestobits
    | 0x04 => .ok .bitstobytes
    | 0x05 => .ok .extractlsb
    | 0x06 => .ok .lenhdrbits
    | 0x07 => .ok .buildframe
    | 0x08 => .ok .parseheader
    | 0x09 => .ok .embed
    | 0x0A => .ok .extract
    | _ => .error .opcodeUnassigned

/-- The opcode of a command (R82). -/
def opcode (i : Instr) : BitVec 8 :=
  match i with
  | .bytetobits => 0x01
  | .bitstobyte => 0x02
  | .bytestobits => 0x03
  | .bitstobytes => 0x04
  | .extractlsb => 0x05
  | .lenhdrbits => 0x06
  | .buildframe => 0x07
  | .parseheader => 0x08
  | .embed => 0x09
  | .extract => 0x0A

/-- The command word `zext_32(OPC)` (R82, R87). -/
def encode (i : Instr) : Word := (opcode i).setWidth 32

/-- What `decode` reads from an instruction whose first `nbits` bits are `w`, the rest 0. A command is
one 32-bit register value (R80), so there are no words to lay out: bit n of `w` is bit n of `CMD`. -/
def decodeTableWord (nbits w : Nat) : Option Instr :=
  if nbits ≤ 32 ∧ w < 2 ^ nbits then (decode (BitVec.ofNat 32 w)).toOption else none

end Sys2Proof
end

