-- ==== Sys2Proof/Machine/Operands.lean ====
section
/-! DEFINITION. The operands of the commands: their regions (R108 of 40_command_cycle.md), the range and
overlap rules (R68, R69 of 20_memory.md), the common checks (R105), and region ownership (R74). -/

namespace Sys2Proof.Machine

open Sys2Proof

/-- A region `[addr, addr + len)` of data memory, in unbounded arithmetic (R13, R109). -/
structure Region where
  addr : Nat
  len : Nat
  deriving DecidableEq, Repr

/-- The region SRC (R32, R105). -/
def State.srcRegion (s : State) : Region := ⟨s.srcAddr.toNat, s.srcLen.toNat⟩

/-- The region BUF (R33, R105). -/
def State.bufRegion (s : State) : Region := ⟨s.bufAddr.toNat, s.bufLen.toNat⟩

/-- The region DST, at its full declared capacity (R34, R105). -/
def State.dstRegion (s : State) : Region := ⟨s.dstAddr.toNat, s.dstLen.toNat⟩

/-- A region is in range (R68). -/
abbrev Region.inRange (memSize : Nat) (r : Region) : Prop := r.addr + r.len ≤ memSize

/-- Two regions overlap; an empty one overlaps nothing (R69). -/
abbrev Region.overlaps (r t : Region) : Prop :=
  0 < r.len ∧ 0 < t.len ∧ r.addr < t.addr + t.len ∧ t.addr < r.addr + r.len

/-- An address lies inside a region. -/
abbrev Region.holds (r : Region) (a : Nat) : Prop := r.addr ≤ a ∧ a < r.addr + r.len

/-- The "range" column of R108, in the order SRC, BUF, DST of R221. -/
def regionsOf (i : Instr) (s : State) : List Region :=
  match i with
  | .bytetobits => [s.dstRegion]
  | .bitstobyte => [s.srcRegion]
  | .bytestobits => [s.srcRegion, s.dstRegion]
  | .bitstobytes => [s.srcRegion, s.dstRegion]
  | .extractlsb => [s.srcRegion, s.dstRegion]
  | .lenhdrbits => [s.dstRegion]
  | .buildframe => [s.srcRegion, s.dstRegion]
  | .parseheader => [s.bufRegion]
  | .embed => [s.srcRegion, s.bufRegion]
  | .extract => [s.bufRegion, s.dstRegion]

/-- The "must not overlap" column of R108. -/
def noOverlapOf (i : Instr) (s : State) : List (Region × Region) :=
  match i with
  | .bytetobits => []
  | .bitstobyte => []
  | .bytestobits => [(s.srcRegion, s.dstRegion)]
  | .bitstobytes => [(s.srcRegion, s.dstRegion)]
  | .extractlsb => [(s.srcRegion, s.dstRegion)]
  | .lenhdrbits => []
  | .buildframe => [(s.srcRegion, s.dstRegion)]
  | .parseheader => []
  | .embed => [(s.srcRegion, s.bufRegion)]
  | .extract => [(s.bufRegion, s.dstRegion)]

/-- The "writes" column of R108; `none` where no memory is written. -/
def writesOf (i : Instr) (s : State) : Option Region :=
  match i with
  | .bytetobits => some s.dstRegion
  | .bitstobyte => none
  | .bytestobits => some s.dstRegion
  | .bitstobytes => some s.dstRegion
  | .extractlsb => some s.dstRegion
  | .lenhdrbits => some s.dstRegion
  | .buildframe => some s.dstRegion
  | .parseheader => none
  | .embed => some s.bufRegion
  | .extract => some s.dstRegion

/-- `common_checks(cmd)` (R105): the error raised, if any. Ranges come before overlaps (R221). -/
def commonChecks (i : Instr) (s : State) : Option CmdError :=
  if ∃ r ∈ regionsOf i s, ¬ r.inRange s.memSize then some .range
  else if ∃ p ∈ noOverlapOf i s, p.1.overlaps p.2 then some .overlap
  else none

/-- `exec` of R104 for a legal command: the common checks, then the body. -/
def State.runCommand (i : Instr) (body : Completion) (s : State) : State :=
  match commonChecks i s with
  | some e => s.raise e
  | none => s.complete body

/-- The regions the pending command owns; an illegal word owns none (R74, R102, R108). The registers are
frozen while busy (R78), so they are those of the accept (log entry 19). -/
def State.ownedRegions (s : State) : List Region :=
  if s.busy then
    match decode s.cmd with
    | .ok i => regionsOf i s
    | .error _ => []
  else []

/-- A data-memory address lies in a region the pending command owns (R74). -/
def State.owned (s : State) (a : Nat) : Bool := s.ownedRegions.any fun r => decide (r.holds a)

/-- The region a reset of a busy block leaves with any values: the pending command's written region,
empty for a command that writes none and for an illegal word (R252). -/
def State.droppedRegion (s : State) : Region :=
  match decode s.cmd with
  | .ok i => (writesOf i s).getD ⟨0, 0⟩
  | .error _ => ⟨0, 0⟩

end Sys2Proof.Machine
end

