-- ==== Sys2Proof/Machine/BitPacking.lean ====
section
/-! DEFINITION. The BitPacking unit's six commands (R130 to R140 of 41_bitpacking.md): for each its body,
in the order of its pseudocode, and its meaning, the common checks and then the body (R104). -/

namespace Sys2Proof.Machine

open Sys2Proof

/-- `body BYTETOBITS` (R130). -/
def bodyBytetobits (s : State) : Completion :=
  if 255 < s.arg.toNat then .raise .arg
  else if s.dstLen.toNat < 8 then .raise (.dstSmall 8 s.dstLen)
  else .finish
    (Memory.writeAll s.mem s.dstAddr.toNat (bitCells (byteToBits (BitVec.ofNat 8 s.arg.toNat)))) 8 0 0

/-- BYTETOBITS (R130). -/
def execBytetobits (s : State) : Host.Outcome State Fault Refusal :=
  .next (s.runCommand .bytetobits (bodyBytetobits s))

/-- `body BITSTOBYTE` (R132). -/
def bodyBitstobyte (s : State) : Completion :=
  if s.srcLen.toNat ≠ 8 then .raise .len
  else if !isBitSeq (Memory.readAll s.mem s.srcAddr.toNat 8) then .raise .badBit
  else .finish s.mem
    (bitsToByte ((Memory.readAll s.mem s.srcAddr.toNat 8).map cellBit)).toNat 0 0

/-- BITSTOBYTE (R132). -/
def execBitstobyte (s : State) : Host.Outcome State Fault Refusal :=
  .next (s.runCommand .bitstobyte (bodyBitstobyte s))

/-- `body BYTESTOBITS` (R134). -/
def bodyBytestobits (s : State) : Completion :=
  if s.dstLen.toNat < 8 * s.srcLen.toNat then .raise (.dstSmall (8 * s.srcLen.toNat) s.dstLen)
  else .finish
    (Memory.writeAll s.mem s.dstAddr.toNat
      (bitCells (bytesToBits (Memory.readAll s.mem s.srcAddr.toNat s.srcLen.toNat))))
    (8 * s.srcLen.toNat) 0 0

/-- BYTESTOBITS (R134). -/
def execBytestobits (s : State) : Host.Outcome State Fault Refusal :=
  .next (s.runCommand .bytestobits (bodyBytestobits s))

/-- `body BITSTOBYTES` (R136): every element is checked, a dropped trailing one too (R126). -/
def bodyBitstobytes (s : State) : Completion :=
  if s.dstLen.toNat < s.srcLen.toNat / 8 then .raise (.dstSmall (s.srcLen.toNat / 8) s.dstLen)
  else if !isBitSeq (Memory.readAll s.mem s.srcAddr.toNat s.srcLen.toNat) then .raise .badBit
  else .finish
    (Memory.writeAll s.mem s.dstAddr.toNat
      (bitsToBytes ((Memory.readAll s.mem s.srcAddr.toNat s.srcLen.toNat).map cellBit)))
    (s.srcLen.toNat / 8) (s.srcLen.toNat % 8) 0

/-- BITSTOBYTES (R136). -/
def execBitstobytes (s : State) : Host.Outcome State Fault Refusal :=
  .next (s.runCommand .bitstobytes (bodyBitstobytes s))

/-- `body EXTRACTLSB` (R138). -/
def bodyExtractlsb (s : State) : Completion :=
  if s.dstLen.toNat < s.srcLen.toNat then .raise (.dstSmall s.srcLen.toNat s.dstLen)
  else .finish
    (Memory.writeAll s.mem s.dstAddr.toNat
      (bitCells (extractLsb (Memory.readAll s.mem s.srcAddr.toNat s.srcLen.toNat))))
    s.srcLen.toNat 0 0

/-- EXTRACTLSB (R138). -/
def execExtractlsb (s : State) : Host.Outcome State Fault Refusal :=
  .next (s.runCommand .extractlsb (bodyExtractlsb s))

/-- `body LENHDRBITS` (R140). -/
def bodyLenhdrbits (s : State) : Completion :=
  if 2 ^ s.headerWidth ≤ s.arg.toNat then .raise .arg
  else if s.dstLen.toNat < s.headerWidth then .raise (.dstSmall s.headerWidth s.dstLen)
  else .finish
    (Memory.writeAll s.mem s.dstAddr.toNat (bitCells (lengthHeaderBits s.arg.toNat s.headerWidth)))
    s.headerWidth 0 0

/-- LENHDRBITS (R140). -/
def execLenhdrbits (s : State) : Host.Outcome State Fault Refusal :=
  .next (s.runCommand .lenhdrbits (bodyLenhdrbits s))

end Sys2Proof.Machine
end

