-- ==== Sys2Proof/Machine/FrameCodec.lean ====
section
/-! DEFINITION. The FrameCodec unit's two commands (R163, R165 of 42_framecodec.md). -/

namespace Sys2Proof.Machine

open Sys2Proof

/-- `len(frame)` of the frame commands: `F = w + 8 × SRC_LEN`, exact (R108, R109). -/
def State.frameLength (s : State) : Nat := s.headerWidth + 8 * s.srcLen.toNat

/-- The frame of the payload in SRC (R161). -/
def State.payloadFrame (s : State) : BitSeq :=
  buildFrame (Memory.readAll s.mem s.srcAddr.toNat s.srcLen.toNat) s.headerWidth

/-- `body BUILDFRAME` (R163). -/
def bodyBuildframe (s : State) : Completion :=
  if 2 ^ s.headerWidth ≤ 8 * s.srcLen.toNat then .raise .hdrOvf
  else if s.dstLen.toNat < s.frameLength then .raise (.dstSmall s.frameLength s.dstLen)
  else .finish (Memory.writeAll s.mem s.dstAddr.toNat (bitCells s.payloadFrame))
    s.frameLength (8 * s.srcLen.toNat) 0

/-- BUILDFRAME (R163). -/
def execBuildframe (s : State) : Host.Outcome State Fault Refusal :=
  .next (s.runCommand .buildframe (bodyBuildframe s))

/-- `L`, the header value of the carrier in BUF (R160, R165). -/
def State.bufHeader (s : State) : Nat :=
  headerValue (extractLsb (Memory.readAll s.mem s.bufAddr.toNat s.headerWidth))

/-- `body PARSEHEADER` (R165). It makes no availability check on `L` (D40). -/
def bodyParseheader (s : State) : Completion :=
  if s.bufLen.toNat < s.headerWidth then .raise (.extract s.headerWidth s.bufLen)
  else .finish s.mem s.bufHeader ((s.bufAddr.toNat + s.headerWidth) % 2 ^ 32)
    (s.bufLen.toNat - s.headerWidth)

/-- PARSEHEADER (R165). -/
def execParseheader (s : State) : Host.Outcome State Fault Refusal :=
  .next (s.runCommand .parseheader (bodyParseheader s))

end Sys2Proof.Machine
end

