-- ==== Sys2Proof/Machine/Embedder.lean ====
section
/-! DEFINITION. The Embedder's command (R181 of 43_embedder.md). -/

namespace Sys2Proof.Machine

open Sys2Proof

/-- `body EMBED` (R181): the header must fit before the capacity is looked at (R221). -/
def bodyEmbed (s : State) : Completion :=
  if 2 ^ s.headerWidth ≤ 8 * s.srcLen.toNat then .raise .hdrOvf
  else if s.bufLen.toNat < s.frameLength then .raise (.capacity s.frameLength s.bufLen)
  else .finish (embedLoop s.payloadFrame s.bufAddr.toNat s.mem).1
    s.frameLength (embedLoop s.payloadFrame s.bufAddr.toNat s.mem).2 (8 * s.srcLen.toNat)

/-- EMBED (R181). -/
def execEmbed (s : State) : Host.Outcome State Fault Refusal :=
  .next (s.runCommand .embed (bodyEmbed s))

end Sys2Proof.Machine
end

