-- ==== Sys2Proof/Machine/Extractor.lean ====
section
/-! DEFINITION. The Extractor's command (R201 of 44_extractor.md). -/

namespace Sys2Proof.Machine

open Sys2Proof

/-- `body EXTRACT` (R201): the short buffer first, then the availability check, then the destination. -/
def bodyExtract (s : State) : Completion :=
  if s.bufLen.toNat < s.headerWidth then .raise (.extract s.headerWidth s.bufLen)
  else if s.bufLen.toNat < s.headerWidth + s.bufHeader then
    .raise (.extract (s.headerWidth + s.bufHeader) s.bufLen)
  else if s.dstLen.toNat < s.bufHeader / 8 then .raise (.dstSmall (s.bufHeader / 8) s.dstLen)
  else .finish
    (Memory.writeAll s.mem s.dstAddr.toNat
      (bitsToBytes (extractLsb
        (Memory.readAll s.mem (s.bufAddr.toNat + s.headerWidth) s.bufHeader))))
    (s.bufHeader / 8) s.bufHeader (s.bufHeader % 8)

/-- EXTRACT (R201). -/
def execExtract (s : State) : Host.Outcome State Fault Refusal :=
  .next (s.runCommand .extract (bodyExtract s))

end Sys2Proof.Machine
end

