-- ==== Sys2Proof/Machine/Dispatch.lean ====
section
/-! DEFINITION. What each command does (R104 of 40_command_cycle.md): one arm per constructor, one
direct call of its meaning. -/

namespace Sys2Proof.Machine

open Sys2Proof

/-- `exec` of R104 on a decoded command. -/
def exec (i : Instr) (s : State) : Host.Outcome State Fault Refusal :=
  match i with
  | .bytetobits => Sys2Proof.Machine.execBytetobits s
  | .bitstobyte => Sys2Proof.Machine.execBitstobyte s
  | .bytestobits => Sys2Proof.Machine.execBytestobits s
  | .bitstobytes => Sys2Proof.Machine.execBitstobytes s
  | .extractlsb => Sys2Proof.Machine.execExtractlsb s
  | .lenhdrbits => Sys2Proof.Machine.execLenhdrbits s
  | .buildframe => Sys2Proof.Machine.execBuildframe s
  | .parseheader => Sys2Proof.Machine.execParseheader s
  | .embed => Sys2Proof.Machine.execEmbed s
  | .extract => Sys2Proof.Machine.execExtract s

end Sys2Proof.Machine
end

