-- ==== Sys2Proof/Machine/HostSide.lean ====
section
/-! DEFINITION. The host: what each of its actions does (R100 to R103 of 40_command_cycle.md, R62 and R74
of 20_memory.md, R250 to R252 of 70_reset_and_hazards.md), and the host program notation as actions (R86
to R88 of 30_encoding.md). -/

namespace Sys2Proof.Machine

open Sys2Proof

/-! ## The host's actions -/

/-- A register read: the value goes to the host, nothing else changes (R101); HOST_ACCESS when it is not
a 32-bit aligned access (R62). -/
def hostRegRead (bits : Nat) (offset : BitVec 8) (s : State) : Host.Outcome State Fault Refusal :=
  if regAccessWellFormed bits offset then .next { s with readData := s.readOffset offset }
  else .next (s.markFault .hostAccess)

/-- A register write (R102, R103); HOST_ACCESS, and no register changed, when it is not a 32-bit aligned
access, at any time (R62). -/
def hostRegWrite (bits : Nat) (offset : BitVec 8) (v : Word) (s : State) :
    Host.Outcome State Fault Refusal :=
  if regAccessWellFormed bits offset then .next (s.writeOffset offset v)
  else .next (s.markFault .hostAccess)

/-- A read of a data-memory byte (R72): HOST_RACE inside an owned region (R74); an address at or beyond
MEM_SIZE does not exist (R60). -/
def hostMemRead (a : Nat) (s : State) : Host.Outcome State Fault Refusal :=
  if s.memSize ≤ a then .fault .noSuchAddress
  else if s.owned a then .next (s.markFault .hostRace)
  else .next { s with readData := (Memory.read s.mem a).setWidth 32 }

/-- A write of a data-memory byte (R72), with the same two stops. -/
def hostMemWrite (a : Nat) (v : Byte) (s : State) : Host.Outcome State Fault Refusal :=
  if s.memSize ≤ a then .fault .noSuchAddress
  else if s.owned a then .next (s.markFault .hostRace)
  else .next { s with mem := Memory.write s.mem a v }

/-- How many bytes of a region exist. -/
def Region.bytesIn (memSize : Nat) (r : Region) : Nat := min r.len (memSize - r.addr)

/-- What a reset of a busy block does to memory (R252): every existing byte of the dropped command's
written region holds a free value, one draw per byte (log entry 11). -/
def State.scramble (s : State) : State :=
  { s with
    mem := Memory.writeAll s.mem s.droppedRegion.addr
      ((List.range (s.droppedRegion.bytesIn s.memSize)).map fun k => Config.freeByte (s.draws + k))
    draws := s.draws + s.droppedRegion.bytesIn s.memSize }

/-- Reset (R250 to R252): every register to its reset value, memory unchanged but for the written region
of a command it drops, `fault` kept. -/
def hostReset (s : State) : Host.Outcome State Fault Refusal :=
  .next (if s.busy then s.scramble.resetRegs else s.resetRegs)

/-- One turn of `WAIT` (R87): read `STATUS`; while the value read has BUSY set, the host waits on. -/
def hostWait (s : State) : Host.Outcome State Fault Refusal :=
  if s.busy then .next { s with readData := s.status, hostQueue := .waitIdle :: s.hostQueue }
  else .next { s with readData := s.status }

/-- One host action (R100). -/
def hostAct (h : HostAction) (s : State) : Host.Outcome State Fault Refusal :=
  match h with
  | .regRead bits offset => hostRegRead bits offset s
  | .regWrite bits offset v => hostRegWrite bits offset v s
  | .memRead a => hostMemRead a s
  | .memWrite a v => hostMemWrite a v s
  | .assertReset => hostReset s
  | .waitIdle => hostWait s

/-! ## Host programs -/

/-- The 32-bit read of a register by name. -/
def readOf (r : RegName) : HostAction := .regRead 32 (regOffset r)

/-- The 32-bit write of a register by name. -/
def writeOf (r : RegName) (v : Word) : HostAction := .regWrite 32 (regOffset r) v

/-- `MEMW <addr>, <b0>, <b1>, ...`: one byte write per value (R86). -/
def memWritesOf (addr : Nat) (bytes : List Byte) : List HostAction :=
  match bytes with
  | [] => []
  | b :: bs => .memWrite addr b :: memWritesOf (addr + 1) bs

/-- A statement as the bus transactions it stands for, in order (R86, R87). -/
def HostStmt.expand (st : HostStmt) : List HostAction :=
  match st with
  | .wr r v => [writeOf r v]
  | .rd r => [readOf r]
  | .memw addr bytes => memWritesOf addr bytes
  | .memr addr n => (List.range n).map fun k => .memRead (addr + k)
  | .cmd i => [writeOf .cmd (encode i)]
  | .wait => [.waitIdle]
  | .hdrw8 => [writeOf .ctrl 0x00000000]
  | .hdrw32 => [writeOf .ctrl 0x00000001]
  | .setsrc a l => [writeOf .srcAddr a, writeOf .srcLen l]
  | .setbuf a l => [writeOf .bufAddr a, writeOf .bufLen l]
  | .setdst a l => [writeOf .dstAddr a, writeOf .dstLen l]

/-- A host program's encoding: its bus transactions in order (R88). -/
def hostProgram (p : List HostStmt) : List HostAction := p.flatMap HostStmt.expand

/-- The host's bus address of a register access: `REG_BASE` plus the offset (R61, R86). -/
def busAddress (offset : BitVec 8) : Nat := Config.regBase + offset.toNat

/-- The state with a host program loaded: its actions are what the host still has to do (log entry 6). -/
def State.loadProgram (p : List HostStmt) (s : State) : State := { s with hostQueue := hostProgram p }

end Sys2Proof.Machine
end

