-- ==== Sys2Proof/Machine/Turn.lean ====
section
/-! DEFINITION. One step of the machine: a core step, or a host action (R72 of 20_memory.md, R104 of
40_command_cycle.md), and whose turn it is (R262 of 70_reset_and_hazards.md). -/

namespace Sys2Proof.Machine

open Sys2Proof

/-- The core has a step exactly when BUSY = 1 and `fault` is empty (R104). -/
def State.coreEnabled (s : State) : Bool := s.busy && s.fault.isNone

/-- The core moves next: its step is enabled and either the host has nothing left to do or the drawn
number of host actions has passed (R72, R262, log entry 5). -/
def State.coreMoves (s : State) : Bool := s.coreEnabled && (s.hostQueue.isEmpty || s.coreWait == 0)

/-- The core step (R104): decode `CMD`; an illegal word raises E_ILLEGAL (R84), a command is executed. -/
def coreStep (s : State) : Host.Outcome State Fault Refusal :=
  match decode s.cmd with
  | .ok i => exec i s
  | .error _ => .next (s.raise .illegal)

/-- The host takes an action off its queue; one fewer may come before the core step. -/
def State.takeAction (rest : List HostAction) (s : State) : State :=
  { s with hostQueue := rest, coreWait := s.coreWait - 1 }

/-- No core step and no host action: an idle block does nothing (R236); a faulted state is stuck (R232,
R114). -/
def restStep (s : State) : Host.Outcome State Fault Refusal :=
  match s.fault with
  | some m => .fault (.marked m)
  | none => .next s

/-- One step of the machine (R72). -/
def turn (s : State) : Host.Outcome State Fault Refusal :=
  if s.coreMoves then coreStep s
  else match s.hostQueue with
    | h :: rest => hostAct h (s.takeAction rest)
    | [] => restStep s

end Sys2Proof.Machine
end

