-- ==== Sys2Proof/Machine/Step.lean ====
section
/-! DEFINITION. The step, and the state whose next step runs a given command. -/

namespace Sys2Proof.Machine

/-- One step (R72, R104): `turn` of Turn.lean. -/
def step (s : State) : Host.Outcome State Fault Refusal := turn s

/-- `s` with the command word of `nbits` bits `w` accepted and its core step next (log entry 6): there
is no program counter to fetch at (R42), so the word goes where a host's write to `CMD` puts it
(R102). -/
def State.withFetchWord (s : State) (nbits w : Nat) : State :=
  s.placeCommand (BitVec.ofNat 32 (w % 2 ^ nbits))

end Sys2Proof.Machine
end

