-- ==== Sys2Proof/Safety.lean ====
section
/-! DEFINITION. The terms claims are stated in: the invariants of the machine, how a command completed,
what it left alone, and when a run has ended. -/

namespace Sys2Proof.Machine

open Sys2Proof

/-! ## Invariants -/

/-- Data memory is in its canonical form and holds bytes at addresses below MEM_SIZE only (R60). -/
structure State.MemoryOk (s : State) : Prop where
  wf : Memory.wf s.mem
  inSize : ∀ c ∈ s.mem, c.1 < s.memSize
  sizeOk : s.memSize ≤ 2 ^ 32

/-- `ERR_REQ`, the 64-bit required length (R36). -/
def State.errReq (s : State) : Nat := s.errReqHi.toNat * 2 ^ 32 + s.errReqLo.toNat

/-- The control, status and error registers hold what R23, R26, R28, R40 and R220 allow: reserved bits
read 0, BUSY and DONE are never both 1, a command that has not completed has no error code, no reserved
code is ever written, and no required length is above the largest one. -/
structure State.RegistersOk (s : State) : Prop where
  ctrlReserved : s.ctrl >>> 1 = 0
  statusReserved : s.status &&& statusReservedMask = 0
  busyNotDone : s.busy = true → statusDone s.status = false
  errOnlyDone : statusErr s.status ≠ 0x00 → statusDone s.status = true
  errAssigned : (statusErr s.status).toNat ≤ 0x0A
  reqBound : s.errReq ≤ 32 + 8 * (2 ^ 32 - 1)

/-! ## Completion -/

/-- What no core step writes (R111): every register but `STATUS`, `RES0` to `RES2`, `ERR_REQ_LO`,
`ERR_REQ_HI` and `ERR_AVAIL`, and everything that is neither a register nor data memory. -/
structure CoreFrame (s t : State) : Prop where
  ctrl : t.ctrl = s.ctrl
  cmd : t.cmd = s.cmd
  arg : t.arg = s.arg
  srcAddr : t.srcAddr = s.srcAddr
  srcLen : t.srcLen = s.srcLen
  bufAddr : t.bufAddr = s.bufAddr
  bufLen : t.bufLen = s.bufLen
  dstAddr : t.dstAddr = s.dstAddr
  dstLen : t.dstLen = s.dstLen
  memSize : t.memSize = s.memSize
  fault : t.fault = s.fault
  hostQueue : t.hostQueue = s.hostQueue
  coreWait : t.coreWait = s.coreWait
  draws : t.draws = s.draws
  readData : t.readData = s.readData

/-- `STATUS` after a completion with error code `c` (R106, R107): BUSY clear, DONE set, ERR the code,
WBUSY and the reserved bits as before. -/
structure StatusCompleted (c : BitVec 8) (s t : State) : Prop where
  busy : statusBusy t.status = false
  done : statusDone t.status = true
  err : statusErr t.status = c
  wbusy : statusWbusy t.status = statusWbusy s.status
  reserved : t.status &&& statusReservedMask = s.status &&& statusReservedMask

/-- The command completed successfully with results `r0 r1 r2` (R106): the registers hold these very
numbers, `ERR_REQ` and `ERR_AVAIL` are unchanged. It says nothing of memory. -/
structure Succeeded (s t : State) (r0 r1 r2 : Nat) : Prop where
  frame : CoreFrame s t
  status : StatusCompleted 0x00 s t
  res0 : t.res0.toNat = r0
  res1 : t.res1.toNat = r1
  res2 : t.res2.toNat = r2
  errReqLo : t.errReqLo = s.errReqLo
  errReqHi : t.errReqHi = s.errReqHi
  errAvail : t.errAvail = s.errAvail

/-- The command failed with error code `c` (R107): no memory byte and no result register is written;
`ERR_REQ` and `ERR_AVAIL` hold `lengths` if there are any, and are unchanged otherwise. -/
structure Failed (s t : State) (c : BitVec 8) (lengths : Option (Nat × Word)) : Prop where
  frame : CoreFrame s t
  status : StatusCompleted c s t
  mem : t.mem = s.mem
  res0 : t.res0 = s.res0
  res1 : t.res1 = s.res1
  res2 : t.res2 = s.res2
  recorded : ∀ req avail, lengths = some (req, avail) → t.errReq = req ∧ t.errAvail = avail
  kept : lengths = none →
    t.errReqLo = s.errReqLo ∧ t.errReqHi = s.errReqHi ∧ t.errAvail = s.errAvail

/-- Every byte outside the `n` bytes from address `a` on reads as before. -/
def MemoryFrame (s t : State) (a n : Nat) : Prop :=
  ∀ b, (b < a ∨ a + n ≤ b) → Memory.read t.mem b = Memory.read s.mem b

/-- Every byte reads as before. -/
def MemoryUnchanged (s t : State) : Prop := ∀ b, Memory.read t.mem b = Memory.read s.mem b

/-! ## The spec's quantities, in plain numbers -/

/-- A region with this address and length is out of range (R68). -/
abbrev OutOfRange (s : State) (a l : Word) : Prop := s.memSize < a.toNat + l.toNat

/-- Two regions overlap (R69). -/
abbrev Overlap (a1 l1 a2 l2 : Word) : Prop :=
  0 < l1.toNat ∧ 0 < l2.toNat ∧ a1.toNat < a2.toNat + l2.toNat ∧ a2.toNat < a1.toNat + l1.toNat

/-- Bit `j` of a number, 0 or 1. -/
abbrev bitOf (n j : Nat) : Nat := n / 2 ^ j % 2

/-- The number a data-memory byte holds. -/
abbrev byteAt (s : State) (a : Nat) : Nat := (Memory.read s.mem a).toNat

/-- `L`: the number the parities of the `w` carrier bytes from `a` on spell, most significant first (R160,
R165). -/
def parityNumber (s : State) (a w : Nat) : Nat :=
  ∑ k ∈ Finset.range w, byteAt s (a + k) % 2 * 2 ^ (w - 1 - k)

/-- Element `i` of the frame of the payload in SRC (R161): the header, then the payload's bits. -/
def frameElement (s : State) (i : Nat) : Nat :=
  if i < s.headerWidth then bitOf (8 * s.srcLen.toNat) (s.headerWidth - 1 - i)
  else bitOf (byteAt s (s.srcAddr.toNat + (i - s.headerWidth) / 8)) (7 - (i - s.headerWidth) % 8)

/-- A carrier byte after the embedding of a frame element (R180). -/
def embedded (b f : Nat) : Nat :=
  if f = 1 ∧ b % 2 = 0 then b + 1 else if f = 0 ∧ b % 2 = 1 then b - 1 else b

/-- The registers of R22 with their offsets. -/
def registerTable (s : State) : List (Nat × Word) :=
  [(0x00, s.ctrl), (0x04, s.cmd), (0x08, s.status), (0x0C, s.arg), (0x10, s.srcAddr),
   (0x14, s.srcLen), (0x18, s.bufAddr), (0x1C, s.bufLen), (0x20, s.dstAddr), (0x24, s.dstLen),
   (0x28, s.res0), (0x2C, s.res1), (0x30, s.res2), (0x34, s.errReqLo), (0x38, s.errReqHi),
   (0x3C, s.errAvail)]

/-! ## Whose step it is -/

/-- The core moves next (R104, log entry 5). -/
def CoreTurn (s : State) : Prop :=
  s.busy = true ∧ s.fault = none ∧ (s.hostQueue = [] ∨ s.coreWait = 0)

/-- The host moves next, with action `h`, and has `rest` left to do after it (R72, log entries 4 and 5). -/
def HostTurn (s : State) (h : HostAction) (rest : List HostAction) : Prop :=
  s.hostQueue = h :: rest ∧ (s.busy = false ∨ s.fault ≠ none ∨ s.coreWait ≠ 0)

/-! ## Runs -/

/-- The end of a run (R114): the host has nothing left to do, no command is pending, `fault` is empty. -/
def State.final (s : State) : Bool := s.hostQueue.isEmpty && !s.busy && s.fault.isNone

/-- No host program without meaning so far (R232). -/
def State.safe (s : State) : Bool := s.fault.isNone

end Sys2Proof.Machine
end

