-- ==== Sys2Proof/Certificates/Slice0/Obligations.lean ====
section
/-! DEFINITION. The statements for the provers, each from a numbered rule of spec/. The terms they use are
those of Safety.lean. -/

open Sys2Proof Sys2Proof.Machine

/-! ## Encoding (30_encoding.md) -/

/-- R82, R84: the ten words of the opcode map decode to their commands, and five words of V96 to none. -/
def Obligations.OpcodeMapWordsDecode : Prop :=
  decode 0x00000001 = .ok .bytetobits ∧ decode 0x00000002 = .ok .bitstobyte ∧
  decode 0x00000003 = .ok .bytestobits ∧ decode 0x00000004 = .ok .bitstobytes ∧
  decode 0x00000005 = .ok .extractlsb ∧ decode 0x00000006 = .ok .lenhdrbits ∧
  decode 0x00000007 = .ok .buildframe ∧ decode 0x00000008 = .ok .parseheader ∧
  decode 0x00000009 = .ok .embed ∧ decode 0x0000000A = .ok .extract ∧
  decode 0x00000000 = .error .opcodeUnassigned ∧ decode 0x0000000B = .error .opcodeUnassigned ∧
  decode 0x000000FF = .error .opcodeUnassigned ∧ decode 0x00000109 = .error .reservedBitsSet ∧
  decode 0x80000001 = .error .reservedBitsSet

/-- R82, R85: over all 2^32 words, each command is selected by its one word and by no other, and a word
selects a command exactly when `word[31:8] = 0` and `word[7:0]` is 0x01 to 0x0A. -/
def Obligations.WordSelectsCommandExactly : Prop :=
  (∀ w : Word,
    (decode w = .ok .bytetobits ↔ w.toNat = 0x01) ∧ (decode w = .ok .bitstobyte ↔ w.toNat = 0x02) ∧
    (decode w = .ok .bytestobits ↔ w.toNat = 0x03) ∧ (decode w = .ok .bitstobytes ↔ w.toNat = 0x04) ∧
    (decode w = .ok .extractlsb ↔ w.toNat = 0x05) ∧ (decode w = .ok .lenhdrbits ↔ w.toNat = 0x06) ∧
    (decode w = .ok .buildframe ↔ w.toNat = 0x07) ∧ (decode w = .ok .parseheader ↔ w.toNat = 0x08) ∧
    (decode w = .ok .embed ↔ w.toNat = 0x09) ∧ (decode w = .ok .extract ↔ w.toNat = 0x0A)) ∧
  (∀ w : Word, (∃ i, decode w = .ok i) ↔
    (w.toNat / 2 ^ 8 = 0 ∧ 0x01 ≤ w.toNat % 2 ^ 8 ∧ w.toNat % 2 ^ 8 ≤ 0x0A))

/-- R82, R87: the encoder and the decoder invert each other, on every command and on every word. -/
def Obligations.EncodeAndDecodeInvert : Prop :=
  (∀ i, decode (encode i) = .ok i) ∧ (∀ w i, decode w = .ok i → encode i = w) ∧
  (∀ w, wordWellFormed w = true ↔ ∃ i, decode w = .ok i)

/-- R87: the pseudo-instructions and their expansions. -/
def Obligations.PseudoInstructionsExpand : Prop :=
  (∀ i, HostStmt.expand (.cmd i) = [.regWrite 32 0x04 (encode i)]) ∧
  HostStmt.expand (.cmd .embed) = [.regWrite 32 0x04 0x00000009] ∧
  HostStmt.expand .wait = [.waitIdle] ∧
  HostStmt.expand .hdrw8 = [.regWrite 32 0x00 0x00000000] ∧
  HostStmt.expand .hdrw32 = [.regWrite 32 0x00 0x00000001] ∧
  (∀ a l, HostStmt.expand (.setsrc a l) = [.regWrite 32 0x10 a, .regWrite 32 0x14 l]) ∧
  (∀ a l, HostStmt.expand (.setbuf a l) = [.regWrite 32 0x18 a, .regWrite 32 0x1C l]) ∧
  (∀ a l, HostStmt.expand (.setdst a l) = [.regWrite 32 0x20 a, .regWrite 32 0x24 l]) ∧
  (∀ s rest, HostTurn s .waitIdle rest → ∃ t, step s = .next t ∧
    t = { s with
      coreWait := s.coreWait - 1
      readData := s.status
      hostQueue := if statusBusy s.status = true then .waitIdle :: rest else rest })

/-! ## The step (40_command_cycle.md) -/

/-- R104: when the core moves, the step is the pending command's execution, and nothing around it. -/
def Obligations.StepRunsDecodedCommand : Prop :=
  ∀ s i, CoreTurn s → decode s.cmd = .ok i → step s = exec i s

/-- R84: an illegal word is accepted like any command, and its core step fails with E_ILLEGAL and has no
other effect. -/
def Obligations.IllegalWordOnlyFails : Prop :=
  (∀ s rest w, HostTurn s (.regWrite 32 0x04 w) rest → s.busy = false → (∀ i, decode w ≠ .ok i) →
    ∃ t, step s = .next t ∧ t.cmd = w ∧ t.busy = true ∧ t.mem = s.mem ∧ t.ownedRegions = []) ∧
  (∀ s, CoreTurn s →
    (s.cmd.toNat / 2 ^ 8 ≠ 0 ∨ s.cmd.toNat % 2 ^ 8 = 0 ∨ 0x0B ≤ s.cmd.toNat % 2 ^ 8) →
    ∃ t, step s = .next t ∧ Failed s t 0x03 none)

/-- R24: the header width that `CTRL.HDRW` selects. -/
def Obligations.HeaderWidthSelected : Prop :=
  ∀ s : State, (s.ctrl.toNat % 2 = 1 → s.headerWidth = 32) ∧ (s.ctrl.toNat % 2 = 0 → s.headerWidth = 8)

/-- R104: every command, in every state, ends in `finish` or `raise`: BUSY is clear and DONE set, and it
writes no register but those of R111. -/
def Obligations.EveryCommandCompletes : Prop :=
  ∀ i s, ∃ t, exec i s = .next t ∧ CoreFrame s t ∧ t.busy = false ∧ statusDone t.status = true ∧
    statusWbusy t.status = statusWbusy s.status

/-! ## The BitPacking unit (41_bitpacking.md) -/

/-- R130, whole: BYTETOBITS. -/
def Obligations.BytetobitsMeetsItsRule : Prop :=
  decode 0x00000001 = .ok .bytetobits ∧
  ∀ s : State, Memory.wf s.mem → ∃ t, exec .bytetobits s = .next t ∧
    if OutOfRange s s.dstAddr s.dstLen then Failed s t 0x04 none
    else if 255 < s.arg.toNat then Failed s t 0x07 none
    else if s.dstLen.toNat < 8 then Failed s t 0x09 (some (8, s.dstLen))
    else Succeeded s t 8 0 0 ∧ MemoryFrame s t s.dstAddr.toNat 8 ∧
      ∀ i < 8, byteAt t (s.dstAddr.toNat + i) = bitOf s.arg.toNat (7 - i)

/-- R132, whole: BITSTOBYTE. -/
def Obligations.BitstobyteMeetsItsRule : Prop :=
  decode 0x00000002 = .ok .bitstobyte ∧
  ∀ s : State, ∃ t, exec .bitstobyte s = .next t ∧
    if OutOfRange s s.srcAddr s.srcLen then Failed s t 0x04 none
    else if s.srcLen.toNat ≠ 8 then Failed s t 0x06 none
    else if ¬ ∀ k < 8, byteAt s (s.srcAddr.toNat + k) ≤ 1 then Failed s t 0x0A none
    else Succeeded s t (∑ k ∈ Finset.range 8, byteAt s (s.srcAddr.toNat + k) * 2 ^ (7 - k)) 0 0 ∧
      MemoryUnchanged s t

/-- R134, whole: BYTESTOBITS. -/
def Obligations.BytestobitsMeetsItsRule : Prop :=
  decode 0x00000003 = .ok .bytestobits ∧
  ∀ s : State, Memory.wf s.mem → ∃ t, exec .bytestobits s = .next t ∧
    if OutOfRange s s.srcAddr s.srcLen ∨ OutOfRange s s.dstAddr s.dstLen then Failed s t 0x04 none
    else if Overlap s.srcAddr s.srcLen s.dstAddr s.dstLen then Failed s t 0x05 none
    else if s.dstLen.toNat < 8 * s.srcLen.toNat then
      Failed s t 0x09 (some (8 * s.srcLen.toNat, s.dstLen))
    else Succeeded s t (8 * s.srcLen.toNat) 0 0 ∧
      MemoryFrame s t s.dstAddr.toNat (8 * s.srcLen.toNat) ∧
      ∀ j < s.srcLen.toNat, ∀ i < 8,
        byteAt t (s.dstAddr.toNat + (8 * j + i)) = bitOf (byteAt s (s.srcAddr.toNat + j)) (7 - i)

/-- R136, whole: BITSTOBYTES. -/
def Obligations.BitstobytesMeetsItsRule : Prop :=
  decode 0x00000004 = .ok .bitstobytes ∧
  ∀ s : State, Memory.wf s.mem → ∃ t, exec .bitstobytes s = .next t ∧
    if OutOfRange s s.srcAddr s.srcLen ∨ OutOfRange s s.dstAddr s.dstLen then Failed s t 0x04 none
    else if Overlap s.srcAddr s.srcLen s.dstAddr s.dstLen then Failed s t 0x05 none
    else if s.dstLen.toNat < s.srcLen.toNat / 8 then
      Failed s t 0x09 (some (s.srcLen.toNat / 8, s.dstLen))
    else if ¬ ∀ k < s.srcLen.toNat, byteAt s (s.srcAddr.toNat + k) ≤ 1 then Failed s t 0x0A none
    else Succeeded s t (s.srcLen.toNat / 8) (s.srcLen.toNat % 8) 0 ∧
      MemoryFrame s t s.dstAddr.toNat (s.srcLen.toNat / 8) ∧
      ∀ j < s.srcLen.toNat / 8, byteAt t (s.dstAddr.toNat + j) =
        ∑ i ∈ Finset.range 8, byteAt s (s.srcAddr.toNat + (8 * j + i)) * 2 ^ (7 - i)

/-- R138, whole: EXTRACTLSB. -/
def Obligations.ExtractlsbMeetsItsRule : Prop :=
  decode 0x00000005 = .ok .extractlsb ∧
  ∀ s : State, Memory.wf s.mem → ∃ t, exec .extractlsb s = .next t ∧
    if OutOfRange s s.srcAddr s.srcLen ∨ OutOfRange s s.dstAddr s.dstLen then Failed s t 0x04 none
    else if Overlap s.srcAddr s.srcLen s.dstAddr s.dstLen then Failed s t 0x05 none
    else if s.dstLen.toNat < s.srcLen.toNat then Failed s t 0x09 (some (s.srcLen.toNat, s.dstLen))
    else Succeeded s t s.srcLen.toNat 0 0 ∧ MemoryFrame s t s.dstAddr.toNat s.srcLen.toNat ∧
      ∀ k < s.srcLen.toNat, byteAt t (s.dstAddr.toNat + k) = byteAt s (s.srcAddr.toNat + k) % 2

/-- R140, whole: LENHDRBITS. -/
def Obligations.LenhdrbitsMeetsItsRule : Prop :=
  decode 0x00000006 = .ok .lenhdrbits ∧
  ∀ s : State, Memory.wf s.mem → ∃ t, exec .lenhdrbits s = .next t ∧
    if OutOfRange s s.dstAddr s.dstLen then Failed s t 0x04 none
    else if 2 ^ s.headerWidth ≤ s.arg.toNat then Failed s t 0x07 none
    else if s.dstLen.toNat < s.headerWidth then Failed s t 0x09 (some (s.headerWidth, s.dstLen))
    else Succeeded s t s.headerWidth 0 0 ∧ MemoryFrame s t s.dstAddr.toNat s.headerWidth ∧
      ∀ i < s.headerWidth,
        byteAt t (s.dstAddr.toNat + i) = bitOf s.arg.toNat (s.headerWidth - 1 - i)

/-- R127, whole: the laws of the functions on values. -/
def Obligations.BitFunctionLaws : Prop :=
  (∀ b : Byte, bitsToByte (byteToBits b) = b) ∧
  (∀ bytes : List Byte, bitsToBytes (bytesToBits bytes) = bytes) ∧
  (∀ s : BitSeq, (bitsToBytes s).length = s.length / 8) ∧
  (∀ s u : BitSeq, s.length % 8 = 0 → u.length < 8 → bitsToBytes (s ++ u) = bitsToBytes s) ∧
  (∀ n width, n < 2 ^ width → headerValue (lengthHeaderBits n width) = n) ∧
  (∀ (b : Byte) (bytes : List Byte) (n width : Nat), ∀ c ∈ bitCells (byteToBits b) ++
    bitCells (bytesToBits bytes) ++ bitCells (extractLsb bytes) ++
    bitCells (lengthHeaderBits n width), c = 0x00 ∨ c = 0x01)

/-- R122: element `8j + i` of `bytesToBits(B)` is element `i` of `byteToBits(B[j])`, and those are all. -/
def Obligations.BytesToBitsElements : Prop :=
  ∀ bytes : List Byte, (bytesToBits bytes).length = 8 * bytes.length ∧
    ∀ j < bytes.length, ∀ i < 8,
      (bytesToBits bytes)[8 * j + i]? = (bytes[j]?).bind fun b => (byteToBits b)[i]?

/-! ## The FrameCodec unit (42_framecodec.md) -/

/-- R160, whole: `headerValue` is the big-endian sum, below `2^width`, and inverts `lengthHeaderBits`. -/
def Obligations.HeaderValueIsBigEndian : Prop :=
  ∀ h : BitSeq,
    headerValue h =
      ∑ i ∈ Finset.range h.length, bitValue (h.getD i false) * 2 ^ (h.length - 1 - i) ∧
    headerValue h < 2 ^ h.length ∧ lengthHeaderBits (headerValue h) h.length = h ∧
    ∀ n, n < 2 ^ h.length → headerValue (lengthHeaderBits n h.length) = n

/-- R161, whole: where the elements of a frame stand. -/
def Obligations.FrameLayout : Prop :=
  ∀ (payload : List Byte) (w : Nat), (w = 8 ∨ w = 32) →
    (buildFrame payload w).length = w + 8 * payload.length ∧
    (∀ i < w, ((buildFrame payload w)[i]?).map bitValue =
      some (bitOf (8 * payload.length) (w - 1 - i))) ∧
    ∀ j < payload.length, ∀ i < 8, ((buildFrame payload w)[w + 8 * j + i]?).map bitValue =
      (payload[j]?).map fun b => bitOf b.toNat (7 - i)

/-- R162: the payload lengths that have a frame: at most 31 bytes with an 8-bit header, at most
2^29 - 1 with a 32-bit one; past them BUILDFRAME and EMBED fail with E_HDR_OVF. -/
def Obligations.HeaderRangeBounds : Prop :=
  ∀ s i t, (i = .buildframe ∨ i = .embed) → commonChecks i s = none → exec i s = .next t →
    (s.ctrl.toNat % 2 = 0 → (statusErr t.status = 0x08 ↔ 31 < s.srcLen.toNat)) ∧
    (s.ctrl.toNat % 2 = 1 → (statusErr t.status = 0x08 ↔ 2 ^ 29 - 1 < s.srcLen.toNat))

/-- R163, whole: BUILDFRAME. -/
def Obligations.BuildframeMeetsItsRule : Prop :=
  decode 0x00000007 = .ok .buildframe ∧
  ∀ s : State, Memory.wf s.mem → ∃ t, exec .buildframe s = .next t ∧
    if OutOfRange s s.srcAddr s.srcLen ∨ OutOfRange s s.dstAddr s.dstLen then Failed s t 0x04 none
    else if Overlap s.srcAddr s.srcLen s.dstAddr s.dstLen then Failed s t 0x05 none
    else if 2 ^ s.headerWidth ≤ 8 * s.srcLen.toNat then Failed s t 0x08 none
    else if s.dstLen.toNat < s.headerWidth + 8 * s.srcLen.toNat then
      Failed s t 0x09 (some (s.headerWidth + 8 * s.srcLen.toNat, s.dstLen))
    else Succeeded s t (s.headerWidth + 8 * s.srcLen.toNat) (8 * s.srcLen.toNat) 0 ∧
      MemoryFrame s t s.dstAddr.toNat (s.headerWidth + 8 * s.srcLen.toNat) ∧
      ∀ i < s.headerWidth + 8 * s.srcLen.toNat,
        byteAt t (s.dstAddr.toNat + i) = frameElement s i

/-- R165, whole: PARSEHEADER. -/
def Obligations.ParseheaderMeetsItsRule : Prop :=
  decode 0x00000008 = .ok .parseheader ∧
  ∀ s : State, ∃ t, exec .parseheader s = .next t ∧
    if OutOfRange s s.bufAddr s.bufLen then Failed s t 0x04 none
    else if s.bufLen.toNat < s.headerWidth then Failed s t 0x02 (some (s.headerWidth, s.bufLen))
    else Succeeded s t (parityNumber s s.bufAddr.toNat s.headerWidth)
        ((s.bufAddr.toNat + s.headerWidth) % 2 ^ 32) (s.bufLen.toNat - s.headerWidth) ∧
      MemoryUnchanged s t

/-! ## The Embedder (43_embedder.md) -/

/-- R180, whole: `embedBits`, element by element. -/
def Obligations.EmbedBitsElements : Prop :=
  ∀ (carrier : List Byte) (frame : BitSeq), frame.length ≤ carrier.length →
    (embedBits carrier frame).length = carrier.length ∧
    ∀ i b, carrier[i]? = some b → ∃ b', (embedBits carrier frame)[i]? = some b' ∧
      (frame[i]? = some true → b.toNat % 2 = 0 → b'.toNat = b.toNat + 1) ∧
      (frame[i]? = some false → b.toNat % 2 = 1 → b'.toNat = b.toNat - 1) ∧
      (frame[i]? = some true → b.toNat % 2 = 1 → b' = b) ∧
      (frame[i]? = some false → b.toNat % 2 = 0 → b' = b) ∧
      (frame.length ≤ i → b' = b)

/-- R181, whole: EMBED. RES1 is the number of carrier bytes changed. -/
def Obligations.EmbedMeetsItsRule : Prop :=
  decode 0x00000009 = .ok .embed ∧
  ∀ s : State, Memory.wf s.mem → ∃ t, exec .embed s = .next t ∧
    if OutOfRange s s.srcAddr s.srcLen ∨ OutOfRange s s.bufAddr s.bufLen then Failed s t 0x04 none
    else if Overlap s.srcAddr s.srcLen s.bufAddr s.bufLen then Failed s t 0x05 none
    else if 2 ^ s.headerWidth ≤ 8 * s.srcLen.toNat then Failed s t 0x08 none
    else if s.bufLen.toNat < s.headerWidth + 8 * s.srcLen.toNat then
      Failed s t 0x01 (some (s.headerWidth + 8 * s.srcLen.toNat, s.bufLen))
    else Succeeded s t (s.headerWidth + 8 * s.srcLen.toNat)
        ((Finset.range (s.headerWidth + 8 * s.srcLen.toNat)).filter fun i =>
          byteAt t (s.bufAddr.toNat + i) ≠ byteAt s (s.bufAddr.toNat + i)).card
        (8 * s.srcLen.toNat) ∧
      MemoryFrame s t s.bufAddr.toNat (s.headerWidth + 8 * s.srcLen.toNat) ∧
      (∀ i < s.headerWidth + 8 * s.srcLen.toNat, byteAt t (s.bufAddr.toNat + i) =
        embedded (byteAt s (s.bufAddr.toNat + i)) (frameElement s i)) ∧
      Memory.readAll t.mem s.bufAddr.toNat s.bufLen.toNat =
        embedBits (Memory.readAll s.mem s.bufAddr.toNat s.bufLen.toNat)
          (buildFrame (Memory.readAll s.mem s.srcAddr.toNat s.srcLen.toNat) s.headerWidth)

/-- R182, whole: after a successful EMBED every carrier byte of the frame's range has moved by at most 1
and has its frame bit's parity, and nothing else in memory, nor BUF_LEN, has changed. -/
def Obligations.EmbedPerturbsMinimally : Prop :=
  ∀ s t : State, Memory.wf s.mem → exec .embed s = .next t → statusErr t.status = 0x00 →
    (∀ i < s.headerWidth + 8 * s.srcLen.toNat,
      byteAt t (s.bufAddr.toNat + i) ≤ byteAt s (s.bufAddr.toNat + i) + 1 ∧
      byteAt s (s.bufAddr.toNat + i) ≤ byteAt t (s.bufAddr.toNat + i) + 1 ∧
      byteAt t (s.bufAddr.toNat + i) % 2 = frameElement s i ∧
      byteAt t (s.bufAddr.toNat + i) ≤ 255) ∧
    (∀ i, s.headerWidth + 8 * s.srcLen.toNat ≤ i → i < s.bufLen.toNat →
      byteAt t (s.bufAddr.toNat + i) = byteAt s (s.bufAddr.toNat + i)) ∧
    (∀ b, b < s.bufAddr.toNat ∨ s.bufAddr.toNat + s.bufLen.toNat ≤ b → byteAt t b = byteAt s b) ∧
    t.bufLen = s.bufLen

/-- R183: when the capacity is too small and nothing before it fails, EMBED fails with E_CAPACITY, and the
carrier, as all of memory, is unmodified. -/
def Obligations.CapacityRejectionLeavesCarrier : Prop :=
  ∀ s : State, commonChecks .embed s = none →
    s.bufLen.toNat < s.headerWidth + 8 * s.srcLen.toNat → 8 * s.srcLen.toNat < 2 ^ s.headerWidth →
    ∃ t, exec .embed s = .next t ∧
      Failed s t 0x01 (some (s.headerWidth + 8 * s.srcLen.toNat, s.bufLen))

/-! ## The Extractor (44_extractor.md) -/

/-- R201, whole: EXTRACT. -/
def Obligations.ExtractMeetsItsRule : Prop :=
  decode 0x0000000A = .ok .extract ∧
  ∀ s : State, Memory.wf s.mem → ∃ t, exec .extract s = .next t ∧
    if OutOfRange s s.bufAddr s.bufLen ∨ OutOfRange s s.dstAddr s.dstLen then Failed s t 0x04 none
    else if Overlap s.bufAddr s.bufLen s.dstAddr s.dstLen then Failed s t 0x05 none
    else if s.bufLen.toNat < s.headerWidth then Failed s t 0x02 (some (s.headerWidth, s.bufLen))
    else if s.bufLen.toNat < s.headerWidth + parityNumber s s.bufAddr.toNat s.headerWidth then
      Failed s t 0x02
        (some (s.headerWidth + parityNumber s s.bufAddr.toNat s.headerWidth, s.bufLen))
    else if s.dstLen.toNat < parityNumber s s.bufAddr.toNat s.headerWidth / 8 then
      Failed s t 0x09 (some (parityNumber s s.bufAddr.toNat s.headerWidth / 8, s.dstLen))
    else Succeeded s t (parityNumber s s.bufAddr.toNat s.headerWidth / 8)
        (parityNumber s s.bufAddr.toNat s.headerWidth)
        (parityNumber s s.bufAddr.toNat s.headerWidth % 8) ∧
      MemoryFrame s t s.dstAddr.toNat (parityNumber s s.bufAddr.toNat s.headerWidth / 8) ∧
      ∀ j < parityNumber s s.bufAddr.toNat s.headerWidth / 8, byteAt t (s.dstAddr.toNat + j) =
        ∑ i ∈ Finset.range 8,
          byteAt s (s.bufAddr.toNat + s.headerWidth + (8 * j + i)) % 2 * 2 ^ (7 - i)

/-- R200: what a successful EXTRACT leaves in its destination is `extractPayload` of the carrier. -/
def Obligations.ExtractWritesExtractPayload : Prop :=
  ∀ s t : State, Memory.wf s.mem → exec .extract s = .next t → statusErr t.status = 0x00 →
    Memory.readAll t.mem s.dstAddr.toNat t.res0.toNat =
      extractPayload (Memory.readAll s.mem s.bufAddr.toNat s.bufLen.toNat) s.headerWidth

/-- R202, whole: EMBED and then EXTRACT gives back the payload. `u` is the state EXTRACT starts in: the
same header width and carrier region, and the carrier's bytes as EMBED left them. -/
def Obligations.EmbedThenExtractRoundTrip : Prop :=
  ∀ s t u : State, Memory.wf s.mem → Memory.wf u.mem →
    s.headerWidth + 8 * s.srcLen.toNat ≤ s.bufLen.toNat →
    8 * s.srcLen.toNat < 2 ^ s.headerWidth →
    ¬ OutOfRange s s.srcAddr s.srcLen → ¬ OutOfRange s s.bufAddr s.bufLen →
    ¬ Overlap s.srcAddr s.srcLen s.bufAddr s.bufLen →
    exec .embed s = .next t →
    u.headerWidth = s.headerWidth → u.bufAddr = s.bufAddr → u.bufLen = s.bufLen →
    u.memSize = s.memSize →
    (∀ k < s.bufLen.toNat, byteAt u (s.bufAddr.toNat + k) = byteAt t (s.bufAddr.toNat + k)) →
    s.srcLen.toNat ≤ u.dstLen.toNat → ¬ OutOfRange u u.dstAddr u.dstLen →
    ¬ Overlap u.bufAddr u.bufLen u.dstAddr u.dstLen →
    ∃ v, exec .extract u = .next v ∧ Succeeded u v s.srcLen.toNat (8 * s.srcLen.toNat) 0 ∧
      Memory.readAll v.mem u.dstAddr.toNat s.srcLen.toNat =
        Memory.readAll s.mem s.srcAddr.toNat s.srcLen.toNat

/-! ## All commands -/

/-- R107, R224: errors are precise. A command that ends with an error code has written no data memory and
no result register, and `ERR_REQ` and `ERR_AVAIL` only for the codes 0x01, 0x02 and 0x09. -/
def Obligations.FailedCommandWritesNothing : Prop :=
  ∀ i s t, exec i s = .next t → statusErr t.status ≠ 0x00 →
    t.mem = s.mem ∧ t.res0 = s.res0 ∧ t.res1 = s.res1 ∧ t.res2 = s.res2 ∧
    (statusErr t.status ∉ [0x01, 0x02, 0x09] → t.errReq = s.errReq ∧ t.errAvail = s.errAvail)

/-- R108, R111: a command writes data memory only inside its "writes" region of R108, and a command that
has none leaves every byte as it was. -/
def Obligations.CommandWritesOnlyItsRegion : Prop :=
  ∀ i s t, Memory.wf s.mem → exec i s = .next t →
    (i = .bitstobyte ∨ i = .parseheader → MemoryUnchanged s t) ∧
    (i = .embed → MemoryFrame s t s.bufAddr.toNat s.bufLen.toNat) ∧
    (i ≠ .bitstobyte → i ≠ .parseheader → i ≠ .embed →
      MemoryFrame s t s.dstAddr.toNat s.dstLen.toNat)

/-- R73, R108: a command depends on its registers and on the bytes of its own regions only. Two states
with the same registers and the same bytes there complete alike: the same results, status and error
record, and the same bytes in those regions afterwards. -/
def Obligations.CommandReadsOnlyItsRegions : Prop :=
  ∀ i s u t v, Memory.wf s.mem → Memory.wf u.mem → u = { s with mem := u.mem } →
    (∀ r ∈ regionsOf i s, ∀ a, r.holds a → byteAt u a = byteAt s a) →
    exec i s = .next t → exec i u = .next v →
    v = { t with mem := v.mem } ∧ ∀ r ∈ regionsOf i s, ∀ a, r.holds a → byteAt v a = byteAt t a

/-- R110: the zero-length cases. With no source, BYTESTOBITS and EXTRACTLSB write nothing; with fewer than
8 elements BITSTOBYTES writes nothing; EMBED of an empty payload embeds a header of value 0; EXTRACT
of a header of value 0 returns an empty payload. -/
def Obligations.ZeroLengthOperands : Prop :=
  ∀ s : State, Memory.wf s.mem →
    (∀ i, (i = .bytestobits ∨ i = .extractlsb) → commonChecks i s = none → s.srcLen = 0 →
      ∃ t, exec i s = .next t ∧ Succeeded s t 0 0 0 ∧ MemoryUnchanged s t) ∧
    (commonChecks .bitstobytes s = none → s.srcLen.toNat < 8 →
      (∀ k < s.srcLen.toNat, byteAt s (s.srcAddr.toNat + k) ≤ 1) →
      ∃ t, exec .bitstobytes s = .next t ∧ Succeeded s t 0 s.srcLen.toNat 0 ∧ MemoryUnchanged s t) ∧
    (commonChecks .embed s = none → s.srcLen = 0 → s.headerWidth ≤ s.bufLen.toNat →
      ∃ t c, exec .embed s = .next t ∧ Succeeded s t s.headerWidth c 0 ∧
        ∀ i < s.headerWidth, byteAt t (s.bufAddr.toNat + i) % 2 = 0) ∧
    (commonChecks .extract s = none → s.headerWidth ≤ s.bufLen.toNat →
      (∀ i < s.headerWidth, byteAt s (s.bufAddr.toNat + i) % 2 = 0) →
      ∃ t, exec .extract s = .next t ∧ Succeeded s t 0 0 0 ∧ MemoryUnchanged s t)

/-- R69: two regions overlap exactly when some address lies in both. -/
def Obligations.OverlapIsSharedAddress : Prop :=
  ∀ r t : Region, r.overlaps t ↔ ∃ a, r.holds a ∧ t.holds a

/-! ## The host (40_command_cycle.md, 20_memory.md) -/

/-- R101: a 32-bit aligned register read returns the register's current value, busy or not, 0 at a
reserved offset, and changes nothing in the block. -/
def Obligations.RegisterReadReturnsValue : Prop :=
  ∀ s off rest, HostTurn s (.regRead 32 off) rest → off.toNat % 4 = 0 →
    ∃ v, step s = .next { s with
        hostQueue := rest, coreWait := s.coreWait - 1, readData := v } ∧
      (∀ o x, (o, x) ∈ registerTable s → off.toNat = o → v = x) ∧ (0x40 ≤ off.toNat → v = 0)

/-- R102, whole: a write to `CMD` while idle accepts the word, whatever it is: BUSY set, DONE, WBUSY and ERR
clear, nothing else in the block changed (`hostQueue`, `coreWait` and `draws` are the model's own, log
entries 4 and 5); from then on the core owns the command's regions, and until the core step no host
action but a reset changes what it owns. -/
def Obligations.CommandAccept : Prop :=
  (∀ s rest v, HostTurn s (.regWrite 32 0x04 v) rest → s.busy = false →
    ∃ t, step s = .next t ∧
      t = { s with
        cmd := v, status := t.status, hostQueue := rest, coreWait := t.coreWait, draws := t.draws } ∧
      statusBusy t.status = true ∧ statusDone t.status = false ∧ statusWbusy t.status = false ∧
      statusErr t.status = 0x00 ∧
      t.status &&& statusReservedMask = s.status &&& statusReservedMask ∧
      (∀ i, decode v = .ok i → ∀ a, t.owned a = true ↔ ∃ r ∈ regionsOf i s, r.holds a) ∧
      ((∀ i, decode v ≠ .ok i) → ∀ a, t.owned a = false)) ∧
  (∀ s t h rest, s.busy = true → HostTurn s h rest → h ≠ .assertReset → step s = .next t →
    t.busy = true ∧ ∀ a, t.owned a = s.owned a)

/-- R103, whole: every other 32-bit aligned register write. -/
def Obligations.OtherRegisterWrites : Prop :=
  ∀ s off rest v, HostTurn s (.regWrite 32 off v) rest → off.toNat % 4 = 0 →
    (s.busy = false →
      (off = 0x00 → ∃ c : Word, c.toNat = v.toNat % 2 ∧ step s = .next { s.takeAction rest with ctrl := c }) ∧
      (off = 0x0C → step s = .next { s.takeAction rest with arg := v }) ∧
      (off = 0x10 → step s = .next { s.takeAction rest with srcAddr := v }) ∧
      (off = 0x14 → step s = .next { s.takeAction rest with srcLen := v }) ∧
      (off = 0x18 → step s = .next { s.takeAction rest with bufAddr := v }) ∧
      (off = 0x1C → step s = .next { s.takeAction rest with bufLen := v }) ∧
      (off = 0x20 → step s = .next { s.takeAction rest with dstAddr := v }) ∧
      (off = 0x24 → step s = .next { s.takeAction rest with dstLen := v }) ∧
      (off = 0x08 ∨ 0x28 ≤ off.toNat → step s = .next (s.takeAction rest))) ∧
    (s.busy = true → ∃ t, step s = .next t ∧ t = { s.takeAction rest with status := t.status } ∧
      statusWbusy t.status = true ∧ statusBusy t.status = true ∧
      statusDone t.status = statusDone s.status ∧ statusErr t.status = statusErr s.status ∧
      t.status &&& statusReservedMask = s.status &&& statusReservedMask)

/-- R62: a host register access of another width than 32 bits, or at an offset that is no multiple of 4,
sets the mark HOST_ACCESS and changes no register, busy or not. The model's readings are: that it does
nothing else either (log entries 10 and 17), and that in a state already marked HOST_RACE the reason becomes
HOST_ACCESS (log entry 8). -/
def Obligations.BadRegisterAccessFaults : Prop :=
  ∀ s bits off rest v, (bits ≠ 32 ∨ off.toNat % 4 ≠ 0) →
    (HostTurn s (.regRead bits off) rest ∨ HostTurn s (.regWrite bits off v) rest) →
    step s = .next { s.takeAction rest with fault := some .hostAccess }

/-- R72, R74: a host access to a data-memory byte inside a region the pending command owns sets the mark
HOST_RACE; outside every owned region it is an ordinary access: a read returns the byte, a write
changes that byte and no other. The model's readings are: that a racing access does nothing else (log
entry 10), that in a state already marked HOST_ACCESS it makes the reason HOST_RACE (log entry 8), and the
stop at an address that does not exist (log entry 9). -/
def Obligations.HostMemoryAccess : Prop :=
  ∀ s a rest v, Memory.wf s.mem →
    (HostTurn s (.memRead a) rest →
      (s.memSize ≤ a → step s = .fault .noSuchAddress) ∧
      (a < s.memSize → s.owned a = true →
        step s = .next { s.takeAction rest with fault := some .hostRace }) ∧
      (a < s.memSize → s.owned a = false → ∃ x : Word, x.toNat = byteAt s a ∧
        step s = .next { s.takeAction rest with readData := x })) ∧
    (HostTurn s (.memWrite a v) rest →
      (s.memSize ≤ a → step s = .fault .noSuchAddress) ∧
      (a < s.memSize → s.owned a = true →
        step s = .next { s.takeAction rest with fault := some .hostRace }) ∧
      (a < s.memSize → s.owned a = false → ∃ m, step s = .next { s.takeAction rest with mem := m } ∧
        Memory.read m a = v ∧ ∀ b, b ≠ a → Memory.read m b = Memory.read s.mem b))

/-- R78, R101, R260: while a command is pending and until its core step, no host action but a reset
changes a register, other than WBUSY: the operands are frozen and the results are the old ones. -/
def Obligations.RegistersFrozenWhileBusy : Prop :=
  ∀ s t h rest, s.busy = true → HostTurn s h rest → h ≠ .assertReset → step s = .next t →
    t = { s with
      status := t.status, mem := t.mem, fault := t.fault, hostQueue := t.hostQueue,
      coreWait := t.coreWait, readData := t.readData } ∧
    (t.status = s.status ∨ t.status = setStatusWbusy true s.status)

/-- R29: WBUSY, once set, stays set until the next accept or a reset. -/
def Obligations.WbusyIsSticky : Prop :=
  ∀ s t, statusWbusy s.status = true → step s = .next t → statusWbusy t.status = false →
    ∃ h rest, HostTurn s h rest ∧
      (h = .assertReset ∨ (s.busy = false ∧ ∃ v, h = .regWrite 32 0x04 v))

/-- R225: `ERR_REQ` and `ERR_AVAIL` keep the values of the last error that recorded them: a step changes
them only if it is a reset, or a core step that ends with the code 0x01, 0x02 or 0x09. -/
def Obligations.ErrorRecordPersists : Prop :=
  ∀ s t, step s = .next t → (t.errReq ≠ s.errReq ∨ t.errAvail ≠ s.errAvail) →
    (∃ rest, HostTurn s .assertReset rest) ∨
    (CoreTurn s ∧ statusErr t.status ∈ [0x01, 0x02, 0x09])

/-- R262: the core step always comes. A host that only waits polls at most `coreWait` times before the
core moves, and finds every register and memory as the command was accepted. -/
def Obligations.WaitReachesCoreStep : Prop :=
  ∀ (s : State) rest, s.busy = true → s.fault = none → s.hostQueue = .waitIdle :: rest →
    ∃ k ≤ s.coreWait, ∃ u : State, Host.Core.run core k s = .next u ∧ CoreTurn u ∧
      u = { s with coreWait := u.coreWait, readData := u.readData } ∧ step u = coreStep u

/-- R232, R104: the mark `fault` is never cleared, and while it is set no core step happens: a pending
command stays pending, but for a reset. -/
def Obligations.FaultIsNeverCleared : Prop :=
  ∀ s t, step s = .next t → s.fault ≠ none →
    t.fault ≠ none ∧
    (s.busy = true → t.busy = true ∧ t.cmd = s.cmd ∨ ∃ rest, HostTurn s .assertReset rest)

/-- R236, R104, R232: with nothing for the host to do, an idle block holds its state, and a faulted one
has no step. The stutter and the named stop are the model's forms of these (log entries 7 and 8). -/
def Obligations.RestingBlock : Prop :=
  ∀ s : State, s.hostQueue = [] →
    (s.busy = false → s.fault = none → step s = .next s) ∧
    ∀ m, s.fault = some m → step s = .fault (.marked m)

/-! ## Reset (70_reset_and_hazards.md) -/

/-- R22, R250, R21: the registers and the mark after reset. -/
def Obligations.ResetRegisterValues : Prop :=
  (registerTable State.reset).map Prod.snd =
    [0x00000001, 0, 0, 0, 0, 0, 0, 0, 0, 0, 0, 0, 0, 0, 0, 0] ∧ State.reset.fault = none

/-- R250, R252: the host's reset, at any time: every register at its reset value, `fault` kept, the block
idle. Memory is unchanged when the block is idle; when it is busy, outside the written region of the
command it drops: DST, or BUF for EMBED (0x09), or nothing for BITSTOBYTE (0x02), PARSEHEADER (0x08)
and an illegal word. `memSize` and `hostQueue` are the model's own (log entries 2, 4 and 12). -/
def Obligations.HostResetStep : Prop :=
  ∀ s rest, Memory.wf s.mem → HostTurn s .assertReset rest →
    ∃ t, step s = .next t ∧
      (registerTable t).map Prod.snd =
        [0x00000001, 0, 0, 0, 0, 0, 0, 0, 0, 0, 0, 0, 0, 0, 0, 0] ∧
      t.busy = false ∧ t.fault = s.fault ∧ t.memSize = s.memSize ∧ t.hostQueue = rest ∧
      (s.busy = false → t.mem = s.mem) ∧
      (s.busy = true →
        (s.cmd.toNat ∈ [0x01, 0x03, 0x04, 0x05, 0x06, 0x07, 0x0A] →
          MemoryFrame s t s.dstAddr.toNat s.dstLen.toNat) ∧
        (s.cmd.toNat = 0x09 → MemoryFrame s t s.bufAddr.toNat s.bufLen.toNat) ∧
        (s.cmd.toNat ∉ [0x01, 0x03, 0x04, 0x05, 0x06, 0x07, 0x09, 0x0A] → t.mem = s.mem))

/-! ## Invariants -/

/-- R60: memory keeps its canonical form, and holds bytes below MEM_SIZE only, over every step from every
state in which it does. -/
def Obligations.StepKeepsMemoryOk : Prop :=
  ∀ s t : State, s.MemoryOk → step s = .next t → t.MemoryOk

/-- R23, R26, R28, R40, R220: over every step from every state in which it is so, reserved bits read 0,
BUSY and DONE are never both 1, an error code is there only with DONE, no reserved code is written, and
no required length is above the largest. -/
def Obligations.StepKeepsRegistersOk : Prop :=
  ∀ s t : State, s.RegistersOk → step s = .next t → t.RegistersOk

/-- The two invariants hold after reset. -/
def Obligations.ResetMeetsInvariants : Prop := State.reset.MemoryOk ∧ State.reset.RegistersOk

/-- R60, R251: data memory at launch holds whatever bytes the launch parameter gives, at every address below
MEM_SIZE. The first clause is for every parameter, the second for the one `State.reset` has. -/
def Obligations.LaunchMemoryHoldsItsParameter : Prop :=
  (∀ (size : Nat) (byte : Nat → Byte), ∀ a < size,
    Memory.read (launchMemory size byte) a = byte a) ∧
  ∀ a < State.reset.memSize, Memory.read State.reset.mem a = Config.launchByte a
end

