-- ==== Sys2Proof/Laws/Bits.lean ====
section
/-! SUPPORT. The functions on values: lengths, elements, and what a cell of a Bit holds. -/

namespace Sys2Proof.Machine

open Sys2Proof

/-! ## Bits and cells -/

@[simp] theorem toNat_bitCell (b : Bool) : (bitCell b).toNat = bitValue b := by cases b <;> rfl

@[simp] theorem bitValue_cellBit (c : Byte) : bitValue (cellBit c) = c.toNat % 2 := by
  unfold bitValue cellBit
  rcases Nat.mod_two_eq_zero_or_one c.toNat with h | h <;> simp [h]

@[simp] theorem cellBit_bitCell (b : Bool) : cellBit (bitCell b) = b := by cases b <;> rfl

theorem bitValue_le (b : Bool) : bitValue b ≤ 1 := by cases b <;> decide

/-- The value of the Bit `x mod 2 = 1`. -/
@[simp] theorem bitValue_mod_two (n : Nat) : bitValue (n % 2 == 1) = n % 2 := by
  unfold bitValue
  rcases Nat.mod_two_eq_zero_or_one n with h | h <;> simp [h]

theorem bitValue_inj {a b : Bool} (h : bitValue a = bitValue b) : a = b := by
  cases a <;> cases b <;> simp_all [bitValue]

@[simp] theorem length_bitCells (s : BitSeq) : (bitCells s).length = s.length := by simp [bitCells]

@[simp] theorem getElem_bitCells (s : BitSeq) (i : Nat) (h : i < (bitCells s).length) :
    (bitCells s)[i] = bitCell (s[i]'(by simpa using h)) := by simp [bitCells]

/-- `isBitSeq` (R126): every cell is at most 1. -/
theorem isBitSeq_iff (cells : List Byte) : isBitSeq cells = true ↔ ∀ c ∈ cells, c.toNat ≤ 1 := by
  have key : ∀ c : Byte, (c == 0x00 || c == 0x01) = true ↔ c.toNat ≤ 1 := by decide
  simp only [isBitSeq, List.all_eq_true, key]

/-! ## Lengths and elements -/

@[simp] theorem length_lengthHeaderBits (n w : Nat) : (lengthHeaderBits n w).length = w := by
  simp [lengthHeaderBits]

/-- Element `i` of a header (R125). -/
theorem bitValue_lengthHeaderBits (n w i : Nat) (h : i < (lengthHeaderBits n w).length) :
    bitValue (lengthHeaderBits n w)[i] = n / 2 ^ (w - 1 - i) % 2 := by
  simp [lengthHeaderBits]

/-- A byte's bits are its 8-bit header (R120, R125). -/
theorem byteToBits_eq (b : Byte) : byteToBits b = lengthHeaderBits b.toNat 8 := rfl

@[simp] theorem length_byteToBits (b : Byte) : (byteToBits b).length = 8 := by simp [byteToBits]

/-- Element `i` of a byte's bits (R120). -/
theorem bitValue_byteToBits (b : Byte) (i : Nat) (h : i < (byteToBits b).length) :
    bitValue (byteToBits b)[i] = b.toNat / 2 ^ (7 - i) % 2 := by
  simp [byteToBits]

@[simp] theorem bytesToBits_nil : bytesToBits [] = [] := rfl

@[simp] theorem bytesToBits_cons (b : Byte) (bs : List Byte) :
    bytesToBits (b :: bs) = byteToBits b ++ bytesToBits bs := rfl

@[simp] theorem length_bytesToBits (bytes : List Byte) :
    (bytesToBits bytes).length = 8 * bytes.length := by
  induction bytes with
  | nil => rfl
  | cons b bs ih => simp [ih]; omega

@[simp] theorem length_bitsToBytes (s : BitSeq) : (bitsToBytes s).length = s.length / 8 := by
  simp [bitsToBytes]

theorem getElem_bitsToBytes (s : BitSeq) (j : Nat) (h : j < (bitsToBytes s).length) :
    (bitsToBytes s)[j] = bitsToByte ((s.drop (8 * j)).take 8) := by
  simp [bitsToBytes]

@[simp] theorem length_extractLsb (bytes : List Byte) :
    (extractLsb bytes).length = bytes.length := by simp [extractLsb]

@[simp] theorem getElem_extractLsb (bytes : List Byte) (i : Nat) (h : i < (extractLsb bytes).length) :
    (extractLsb bytes)[i] = cellBit (bytes[i]'(by simpa using h)) := by simp [extractLsb]

@[simp] theorem length_buildFrame (payload : List Byte) (w : Nat) :
    (buildFrame payload w).length = w + 8 * payload.length := by
  simp [buildFrame]

/-- What a frame bit makes of a carrier byte (R180), in numbers. -/
theorem toNat_embedByte (b : Byte) (bit : Bool) :
    (embedByte b bit).toNat =
      if bit = true ∧ b.toNat % 2 = 0 then b.toNat + 1
      else if bit = false ∧ b.toNat % 2 = 1 then b.toNat - 1 else b.toNat := by
  revert b bit
  decide +kernel

/-- A byte whose parity agrees is left as it is (R180). -/
theorem embedByte_of_agrees {b : Byte} {bit : Bool} (h : parityDiffers b bit = false) :
    embedByte b bit = b := by
  revert b bit
  decide +kernel

end Sys2Proof.Machine
end

