-- ==== Sys2Proof/Laws/Memory.lean ====
section
/-! SUPPORT. Data memory: reads after writes, what a write lists, and that every memory operation keeps
the canonical form. -/

namespace Sys2Proof.Machine

open Sys2Proof

/-! ## The canonical form, cell by cell -/

theorem Memory.wf_nil : Memory.wf [] := ⟨List.Pairwise.nil, by simp⟩

theorem Memory.wf_cons {k : Nat} {v : Byte} {m : Memory} :
    Memory.wf ((k, v) :: m) ↔ v ≠ unlistedByte ∧ (∀ c ∈ m, k < c.1) ∧ Memory.wf m := by
  simp only [Memory.wf, List.pairwise_cons, List.forall_mem_cons]
  tauto

theorem Memory.wf_tail {c : Host.Cell} {m : Memory} (h : Memory.wf (c :: m)) : Memory.wf m :=
  (Memory.wf_cons.1 h).2.2

@[simp] theorem Memory.read_nil (a : Nat) : Memory.read [] a = unlistedByte := rfl

theorem Memory.read_cons (k : Nat) (v : Byte) (m : Memory) (a : Nat) :
    Memory.read ((k, v) :: m) a = if a = k then v else Memory.read m a := rfl

theorem Memory.read_of_forall_ne {m : Memory} {a : Nat} (h : ∀ c ∈ m, a ≠ c.1) :
    Memory.read m a = unlistedByte := by
  induction m with
  | nil => rfl
  | cons c m ih =>
    obtain ⟨k, v⟩ := c
    rw [Memory.read_cons, if_neg (h (k, v) (by simp)), ih fun c hc => h c (by simp [hc])]

/-! ## One write -/

/-- Every cell listed after a write is the one written or was listed before. -/
theorem Memory.mem_write {m : Memory} {a : Nat} {v : Byte} {c : Host.Cell}
    (h : c ∈ Memory.write m a v) : (c = (a, v) ∧ v ≠ unlistedByte) ∨ c ∈ m := by
  induction m with
  | nil =>
    simp only [Memory.write] at h
    split at h <;> simp_all
  | cons d m ih =>
    obtain ⟨k, u⟩ := d
    simp only [Memory.write] at h
    split at h
    · split at h <;> simp_all
    · split at h
      · split at h
        · exact .inr (List.mem_cons_of_mem _ h)
        · rcases List.mem_cons.1 h with rfl | h
          · exact .inl ⟨rfl, by assumption⟩
          · exact .inr (List.mem_cons_of_mem _ h)
      · rcases List.mem_cons.1 h with rfl | h
        · exact .inr (by simp)
        · exact (ih h).imp id (List.mem_cons_of_mem _)

theorem Memory.write_wf {m : Memory} (h : Memory.wf m) (a : Nat) (v : Byte) :
    Memory.wf (Memory.write m a v) := by
  induction m with
  | nil =>
    simp only [Memory.write]
    split
    · exact Memory.wf_nil
    · exact Memory.wf_cons.2 ⟨by assumption, by simp, Memory.wf_nil⟩
  | cons d m ih =>
    obtain ⟨k, u⟩ := d
    obtain ⟨hu, hk, hm⟩ := Memory.wf_cons.1 h
    simp only [Memory.write]
    split
    · rename_i hak
      split
      · exact h
      · refine Memory.wf_cons.2 ⟨by assumption, ?_, h⟩
        rintro c hc
        rcases List.mem_cons.1 hc with rfl | hc
        · exact hak
        · exact lt_trans hak (hk c hc)
    · split
      · split
        · exact hm
        · rename_i hne hak hv
          exact Memory.wf_cons.2 ⟨hv, by rw [hak]; exact hk, hm⟩
      · rename_i hlt hne
        refine Memory.wf_cons.2 ⟨hu, ?_, ih hm⟩
        intro c hc
        rcases Memory.mem_write hc with ⟨rfl, -⟩ | hc
        · simp only; omega
        · exact hk c hc

/-- A byte read after it was written is the byte written. -/
theorem Memory.read_write_same {m : Memory} (h : Memory.wf m) (a : Nat) (v : Byte) :
    Memory.read (Memory.write m a v) a = v := by
  induction m with
  | nil =>
    simp only [Memory.write]
    split
    · simp_all
    · simp [Memory.read_cons]
  | cons d m ih =>
    obtain ⟨k, u⟩ := d
    obtain ⟨-, hk, hm⟩ := Memory.wf_cons.1 h
    simp only [Memory.write]
    split
    · rename_i hak
      split
      · rename_i hv
        rw [hv]
        apply Memory.read_of_forall_ne
        intro c hc
        rcases List.mem_cons.1 hc with rfl | hc
        · exact ne_of_lt hak
        · exact ne_of_lt (lt_trans hak (hk c hc))
      · simp [Memory.read_cons]
    · split
      · rename_i hak
        split
        · rename_i hv
          rw [hv]
          exact Memory.read_of_forall_ne fun c hc => ne_of_lt (hak ▸ hk c hc)
        · simp [Memory.read_cons]
      · rename_i hne
        rw [Memory.read_cons, if_neg hne, ih hm]

/-- A write leaves every other byte alone. -/
theorem Memory.read_write_ne {m : Memory} (h : Memory.wf m) {a b : Nat} (v : Byte) (hab : b ≠ a) :
    Memory.read (Memory.write m a v) b = Memory.read m b := by
  induction m with
  | nil =>
    simp only [Memory.write]
    split
    · rfl
    · simp [Memory.read_cons, hab]
  | cons d m ih =>
    obtain ⟨k, u⟩ := d
    obtain ⟨-, hk, hm⟩ := Memory.wf_cons.1 h
    simp only [Memory.write]
    split
    · split
      · rfl
      · simp [Memory.read_cons, hab]
    · split
      · rename_i hak
        subst hak
        split
        · rw [Memory.read_cons, if_neg hab]
        · simp [Memory.read_cons, hab]
      · rw [Memory.read_cons, Memory.read_cons, ih hm]

theorem Memory.read_write {m : Memory} (h : Memory.wf m) (a b : Nat) (v : Byte) :
    Memory.read (Memory.write m a v) b = if b = a then v else Memory.read m b := by
  split
  · rename_i hab
    rw [hab, Memory.read_write_same h]
  · rename_i hab
    exact Memory.read_write_ne h v hab

/-! ## A sequence of writes -/

theorem Memory.writeAll_wf {m : Memory} (h : Memory.wf m) (a : Nat) (bytes : List Byte) :
    Memory.wf (Memory.writeAll m a bytes) := by
  induction bytes generalizing m a with
  | nil => exact h
  | cons b bs ih => exact ih (Memory.write_wf h a b) (a + 1)

/-- Every cell listed after the writes lies in the bytes written or was listed before. -/
theorem Memory.mem_writeAll {m : Memory} {a : Nat} {bytes : List Byte} {c : Host.Cell}
    (h : c ∈ Memory.writeAll m a bytes) : (a ≤ c.1 ∧ c.1 < a + bytes.length) ∨ c ∈ m := by
  induction bytes generalizing m a with
  | nil => exact .inr h
  | cons b bs ih =>
    rcases ih h with h | h
    · left; simp only [List.length_cons]; omega
    · rcases Memory.mem_write h with ⟨rfl, -⟩ | h
      · left; simp
      · exact .inr h

/-- Bytes outside those written read as before. -/
theorem Memory.read_writeAll_outside {m : Memory} (h : Memory.wf m) {a b : Nat} {bytes : List Byte}
    (hb : b < a ∨ a + bytes.length ≤ b) :
    Memory.read (Memory.writeAll m a bytes) b = Memory.read m b := by
  induction bytes generalizing m a with
  | nil => rfl
  | cons x xs ih =>
    simp only [List.length_cons] at hb
    rw [Memory.writeAll, ih (Memory.write_wf h a x) (by omega),
      Memory.read_write_ne h x (by omega)]

/-- Byte `i` of those written reads as written. -/
theorem Memory.read_writeAll_inside {m : Memory} (h : Memory.wf m) {a i : Nat} {bytes : List Byte}
    (hi : i < bytes.length) : Memory.read (Memory.writeAll m a bytes) (a + i) = bytes[i] := by
  induction bytes generalizing m a i with
  | nil => simp at hi
  | cons x xs ih =>
    cases i with
    | zero =>
      rw [Memory.writeAll, Memory.read_writeAll_outside (Memory.write_wf h a x) (by omega)]
      simpa using Memory.read_write_same h a x
    | succ i =>
      simp only [List.length_cons] at hi
      have := ih (Memory.write_wf h a x) (a := a + 1) (i := i) (by omega)
      rw [Memory.writeAll, show a + (i + 1) = a + 1 + i by omega, this]
      simp

/-! ## A sequence of reads -/

@[simp] theorem Memory.length_readAll (m : Memory) (a n : Nat) :
    (Memory.readAll m a n).length = n := by simp [Memory.readAll]

@[simp] theorem Memory.getElem_readAll {m : Memory} {a n i : Nat}
    (h : i < (Memory.readAll m a n).length) :
    (Memory.readAll m a n)[i] = Memory.read m (a + i) := by simp [Memory.readAll]

theorem Memory.readAll_congr {m m' : Memory} {a n : Nat}
    (h : ∀ i < n, Memory.read m (a + i) = Memory.read m' (a + i)) :
    Memory.readAll m a n = Memory.readAll m' a n := by
  simp only [Memory.readAll]
  exact List.map_congr_left fun i hi => h i (List.mem_range.1 hi)

theorem Memory.take_readAll (m : Memory) (a : Nat) {k n : Nat} (h : k ≤ n) :
    (Memory.readAll m a n).take k = Memory.readAll m a k := by
  apply List.ext_getElem
  · simpa using h
  · intro i h1 h2
    simp

theorem Memory.drop_readAll (m : Memory) (a k n : Nat) :
    (Memory.readAll m a n).drop k = Memory.readAll m (a + k) (n - k) := by
  apply List.ext_getElem
  · simp
  · intro i h1 h2
    simp [Nat.add_assoc]

/-- Reading back what was written. -/
theorem Memory.readAll_writeAll {m : Memory} (h : Memory.wf m) (a : Nat) (bytes : List Byte) :
    Memory.readAll (Memory.writeAll m a bytes) a bytes.length = bytes := by
  apply List.ext_getElem
  · simp
  · intro i h1 h2
    simp [Memory.read_writeAll_inside h h2]

/-! ## Memory at launch -/

/-- A cell of the launch memory is an address below its size with that address's byte, when not 0x00. -/
theorem mem_launchMemory {size : Nat} {byte : Nat → Byte} {c : Host.Cell} :
    c ∈ launchMemory size byte ↔ c.1 < size ∧ c.2 = byte c.1 ∧ c.2 ≠ unlistedByte := by
  obtain ⟨a, v⟩ := c
  simp only [launchMemory, List.mem_filter, List.mem_map, List.mem_range, decide_eq_true_eq,
    Prod.mk.injEq]
  constructor
  · rintro ⟨⟨_, ha, rfl, rfl⟩, hv⟩
    exact ⟨ha, rfl, hv⟩
  · rintro ⟨ha, rfl, hv⟩
    exact ⟨⟨a, ha, rfl, rfl⟩, hv⟩

/-- The launch memory is in canonical form, whatever the parameter. -/
theorem launchMemory_wf (size : Nat) (byte : Nat → Byte) : Memory.wf (launchMemory size byte) := by
  refine ⟨List.Pairwise.filter _ ?_, fun c hc => (mem_launchMemory.1 hc).2.2⟩
  rw [List.pairwise_map]
  exact List.pairwise_lt_range

end Sys2Proof.Machine
end

