-- ==== Sys2Proof/Laws/State.lean ====
section
/-! SUPPORT. One lemma per field per named update of the state: what the field reads afterwards. -/

namespace Sys2Proof.Machine

open Sys2Proof

variable (s : State)

/-! ## `State.accept` -/

@[simp] theorem State.accept_ctrl (v : Word) : (s.accept v).ctrl = s.ctrl := rfl
@[simp] theorem State.accept_cmd (v : Word) : (s.accept v).cmd = v := rfl
@[simp] theorem State.accept_status (v : Word) : (s.accept v).status = acceptStatus s.status := rfl
@[simp] theorem State.accept_arg (v : Word) : (s.accept v).arg = s.arg := rfl
@[simp] theorem State.accept_srcAddr (v : Word) : (s.accept v).srcAddr = s.srcAddr := rfl
@[simp] theorem State.accept_srcLen (v : Word) : (s.accept v).srcLen = s.srcLen := rfl
@[simp] theorem State.accept_bufAddr (v : Word) : (s.accept v).bufAddr = s.bufAddr := rfl
@[simp] theorem State.accept_bufLen (v : Word) : (s.accept v).bufLen = s.bufLen := rfl
@[simp] theorem State.accept_dstAddr (v : Word) : (s.accept v).dstAddr = s.dstAddr := rfl
@[simp] theorem State.accept_dstLen (v : Word) : (s.accept v).dstLen = s.dstLen := rfl
@[simp] theorem State.accept_res0 (v : Word) : (s.accept v).res0 = s.res0 := rfl
@[simp] theorem State.accept_res1 (v : Word) : (s.accept v).res1 = s.res1 := rfl
@[simp] theorem State.accept_res2 (v : Word) : (s.accept v).res2 = s.res2 := rfl
@[simp] theorem State.accept_errReqLo (v : Word) : (s.accept v).errReqLo = s.errReqLo := rfl
@[simp] theorem State.accept_errReqHi (v : Word) : (s.accept v).errReqHi = s.errReqHi := rfl
@[simp] theorem State.accept_errAvail (v : Word) : (s.accept v).errAvail = s.errAvail := rfl
@[simp] theorem State.accept_mem (v : Word) : (s.accept v).mem = s.mem := rfl
@[simp] theorem State.accept_memSize (v : Word) : (s.accept v).memSize = s.memSize := rfl
@[simp] theorem State.accept_fault (v : Word) : (s.accept v).fault = s.fault := rfl
@[simp] theorem State.accept_hostQueue (v : Word) : (s.accept v).hostQueue = s.hostQueue := rfl
@[simp] theorem State.accept_coreWait (v : Word) : (s.accept v).coreWait = Config.coreDelay s.draws := rfl
@[simp] theorem State.accept_draws (v : Word) : (s.accept v).draws = s.draws + 1 := rfl
@[simp] theorem State.accept_readData (v : Word) : (s.accept v).readData = s.readData := rfl

/-! ## `State.markFault` -/

@[simp] theorem State.markFault_ctrl (m : FaultMark) : (s.markFault m).ctrl = s.ctrl := rfl
@[simp] theorem State.markFault_cmd (m : FaultMark) : (s.markFault m).cmd = s.cmd := rfl
@[simp] theorem State.markFault_status (m : FaultMark) : (s.markFault m).status = s.status := rfl
@[simp] theorem State.markFault_arg (m : FaultMark) : (s.markFault m).arg = s.arg := rfl
@[simp] theorem State.markFault_srcAddr (m : FaultMark) : (s.markFault m).srcAddr = s.srcAddr := rfl
@[simp] theorem State.markFault_srcLen (m : FaultMark) : (s.markFault m).srcLen = s.srcLen := rfl
@[simp] theorem State.markFault_bufAddr (m : FaultMark) : (s.markFault m).bufAddr = s.bufAddr := rfl
@[simp] theorem State.markFault_bufLen (m : FaultMark) : (s.markFault m).bufLen = s.bufLen := rfl
@[simp] theorem State.markFault_dstAddr (m : FaultMark) : (s.markFault m).dstAddr = s.dstAddr := rfl
@[simp] theorem State.markFault_dstLen (m : FaultMark) : (s.markFault m).dstLen = s.dstLen := rfl
@[simp] theorem State.markFault_res0 (m : FaultMark) : (s.markFault m).res0 = s.res0 := rfl
@[simp] theorem State.markFault_res1 (m : FaultMark) : (s.markFault m).res1 = s.res1 := rfl
@[simp] theorem State.markFault_res2 (m : FaultMark) : (s.markFault m).res2 = s.res2 := rfl
@[simp] theorem State.markFault_errReqLo (m : FaultMark) : (s.markFault m).errReqLo = s.errReqLo := rfl
@[simp] theorem State.markFault_errReqHi (m : FaultMark) : (s.markFault m).errReqHi = s.errReqHi := rfl
@[simp] theorem State.markFault_errAvail (m : FaultMark) : (s.markFault m).errAvail = s.errAvail := rfl
@[simp] theorem State.markFault_mem (m : FaultMark) : (s.markFault m).mem = s.mem := rfl
@[simp] theorem State.markFault_memSize (m : FaultMark) : (s.markFault m).memSize = s.memSize := rfl
@[simp] theorem State.markFault_fault (m : FaultMark) : (s.markFault m).fault = some m := rfl
@[simp] theorem State.markFault_hostQueue (m : FaultMark) : (s.markFault m).hostQueue = s.hostQueue := rfl
@[simp] theorem State.markFault_coreWait (m : FaultMark) : (s.markFault m).coreWait = s.coreWait := rfl
@[simp] theorem State.markFault_draws (m : FaultMark) : (s.markFault m).draws = s.draws := rfl
@[simp] theorem State.markFault_readData (m : FaultMark) : (s.markFault m).readData = s.readData := rfl

/-! ## `State.resetRegs` -/

@[simp] theorem State.resetRegs_ctrl : s.resetRegs.ctrl = 0x00000001 := rfl
@[simp] theorem State.resetRegs_cmd : s.resetRegs.cmd = 0 := rfl
@[simp] theorem State.resetRegs_status : s.resetRegs.status = 0 := rfl
@[simp] theorem State.resetRegs_arg : s.resetRegs.arg = 0 := rfl
@[simp] theorem State.resetRegs_srcAddr : s.resetRegs.srcAddr = 0 := rfl
@[simp] theorem State.resetRegs_srcLen : s.resetRegs.srcLen = 0 := rfl
@[simp] theorem State.resetRegs_bufAddr : s.resetRegs.bufAddr = 0 := rfl
@[simp] theorem State.resetRegs_bufLen : s.resetRegs.bufLen = 0 := rfl
@[simp] theorem State.resetRegs_dstAddr : s.resetRegs.dstAddr = 0 := rfl
@[simp] theorem State.resetRegs_dstLen : s.resetRegs.dstLen = 0 := rfl
@[simp] theorem State.resetRegs_res0 : s.resetRegs.res0 = 0 := rfl
@[simp] theorem State.resetRegs_res1 : s.resetRegs.res1 = 0 := rfl
@[simp] theorem State.resetRegs_res2 : s.resetRegs.res2 = 0 := rfl
@[simp] theorem State.resetRegs_errReqLo : s.resetRegs.errReqLo = 0 := rfl
@[simp] theorem State.resetRegs_errReqHi : s.resetRegs.errReqHi = 0 := rfl
@[simp] theorem State.resetRegs_errAvail : s.resetRegs.errAvail = 0 := rfl
@[simp] theorem State.resetRegs_mem : s.resetRegs.mem = s.mem := rfl
@[simp] theorem State.resetRegs_memSize : s.resetRegs.memSize = s.memSize := rfl
@[simp] theorem State.resetRegs_fault : s.resetRegs.fault = s.fault := rfl
@[simp] theorem State.resetRegs_hostQueue : s.resetRegs.hostQueue = s.hostQueue := rfl
@[simp] theorem State.resetRegs_coreWait : s.resetRegs.coreWait = s.coreWait := rfl
@[simp] theorem State.resetRegs_draws : s.resetRegs.draws = s.draws := rfl
@[simp] theorem State.resetRegs_readData : s.resetRegs.readData = s.readData := rfl

/-! ## `State.finish` -/

@[simp] theorem State.finish_ctrl (m : Memory) (r0 r1 r2 : Nat) : (s.finish m r0 r1 r2).ctrl = s.ctrl := rfl
@[simp] theorem State.finish_cmd (m : Memory) (r0 r1 r2 : Nat) : (s.finish m r0 r1 r2).cmd = s.cmd := rfl
@[simp] theorem State.finish_status (m : Memory) (r0 r1 r2 : Nat) : (s.finish m r0 r1 r2).status = completeStatus 0x00 s.status := rfl
@[simp] theorem State.finish_arg (m : Memory) (r0 r1 r2 : Nat) : (s.finish m r0 r1 r2).arg = s.arg := rfl
@[simp] theorem State.finish_srcAddr (m : Memory) (r0 r1 r2 : Nat) : (s.finish m r0 r1 r2).srcAddr = s.srcAddr := rfl
@[simp] theorem State.finish_srcLen (m : Memory) (r0 r1 r2 : Nat) : (s.finish m r0 r1 r2).srcLen = s.srcLen := rfl
@[simp] theorem State.finish_bufAddr (m : Memory) (r0 r1 r2 : Nat) : (s.finish m r0 r1 r2).bufAddr = s.bufAddr := rfl
@[simp] theorem State.finish_bufLen (m : Memory) (r0 r1 r2 : Nat) : (s.finish m r0 r1 r2).bufLen = s.bufLen := rfl
@[simp] theorem State.finish_dstAddr (m : Memory) (r0 r1 r2 : Nat) : (s.finish m r0 r1 r2).dstAddr = s.dstAddr := rfl
@[simp] theorem State.finish_dstLen (m : Memory) (r0 r1 r2 : Nat) : (s.finish m r0 r1 r2).dstLen = s.dstLen := rfl
@[simp] theorem State.finish_res0 (m : Memory) (r0 r1 r2 : Nat) : (s.finish m r0 r1 r2).res0 = BitVec.ofNat 32 r0 := rfl
@[simp] theorem State.finish_res1 (m : Memory) (r0 r1 r2 : Nat) : (s.finish m r0 r1 r2).res1 = BitVec.ofNat 32 r1 := rfl
@[simp] theorem State.finish_res2 (m : Memory) (r0 r1 r2 : Nat) : (s.finish m r0 r1 r2).res2 = BitVec.ofNat 32 r2 := rfl
@[simp] theorem State.finish_errReqLo (m : Memory) (r0 r1 r2 : Nat) : (s.finish m r0 r1 r2).errReqLo = s.errReqLo := rfl
@[simp] theorem State.finish_errReqHi (m : Memory) (r0 r1 r2 : Nat) : (s.finish m r0 r1 r2).errReqHi = s.errReqHi := rfl
@[simp] theorem State.finish_errAvail (m : Memory) (r0 r1 r2 : Nat) : (s.finish m r0 r1 r2).errAvail = s.errAvail := rfl
@[simp] theorem State.finish_mem (m : Memory) (r0 r1 r2 : Nat) : (s.finish m r0 r1 r2).mem = m := rfl
@[simp] theorem State.finish_memSize (m : Memory) (r0 r1 r2 : Nat) : (s.finish m r0 r1 r2).memSize = s.memSize := rfl
@[simp] theorem State.finish_fault (m : Memory) (r0 r1 r2 : Nat) : (s.finish m r0 r1 r2).fault = s.fault := rfl
@[simp] theorem State.finish_hostQueue (m : Memory) (r0 r1 r2 : Nat) : (s.finish m r0 r1 r2).hostQueue = s.hostQueue := rfl
@[simp] theorem State.finish_coreWait (m : Memory) (r0 r1 r2 : Nat) : (s.finish m r0 r1 r2).coreWait = s.coreWait := rfl
@[simp] theorem State.finish_draws (m : Memory) (r0 r1 r2 : Nat) : (s.finish m r0 r1 r2).draws = s.draws := rfl
@[simp] theorem State.finish_readData (m : Memory) (r0 r1 r2 : Nat) : (s.finish m r0 r1 r2).readData = s.readData := rfl

/-! ## `State.raise` -/

@[simp] theorem State.raise_ctrl (e : CmdError) : (s.raise e).ctrl = s.ctrl := by cases e <;> rfl
@[simp] theorem State.raise_cmd (e : CmdError) : (s.raise e).cmd = s.cmd := by cases e <;> rfl
@[simp] theorem State.raise_status (e : CmdError) : (s.raise e).status = completeStatus (errorCode e) s.status := by cases e <;> rfl
@[simp] theorem State.raise_arg (e : CmdError) : (s.raise e).arg = s.arg := by cases e <;> rfl
@[simp] theorem State.raise_srcAddr (e : CmdError) : (s.raise e).srcAddr = s.srcAddr := by cases e <;> rfl
@[simp] theorem State.raise_srcLen (e : CmdError) : (s.raise e).srcLen = s.srcLen := by cases e <;> rfl
@[simp] theorem State.raise_bufAddr (e : CmdError) : (s.raise e).bufAddr = s.bufAddr := by cases e <;> rfl
@[simp] theorem State.raise_bufLen (e : CmdError) : (s.raise e).bufLen = s.bufLen := by cases e <;> rfl
@[simp] theorem State.raise_dstAddr (e : CmdError) : (s.raise e).dstAddr = s.dstAddr := by cases e <;> rfl
@[simp] theorem State.raise_dstLen (e : CmdError) : (s.raise e).dstLen = s.dstLen := by cases e <;> rfl
@[simp] theorem State.raise_res0 (e : CmdError) : (s.raise e).res0 = s.res0 := by cases e <;> rfl
@[simp] theorem State.raise_res1 (e : CmdError) : (s.raise e).res1 = s.res1 := by cases e <;> rfl
@[simp] theorem State.raise_res2 (e : CmdError) : (s.raise e).res2 = s.res2 := by cases e <;> rfl
@[simp] theorem State.raise_mem (e : CmdError) : (s.raise e).mem = s.mem := by cases e <;> rfl
@[simp] theorem State.raise_memSize (e : CmdError) : (s.raise e).memSize = s.memSize := by cases e <;> rfl
@[simp] theorem State.raise_fault (e : CmdError) : (s.raise e).fault = s.fault := by cases e <;> rfl
@[simp] theorem State.raise_hostQueue (e : CmdError) : (s.raise e).hostQueue = s.hostQueue := by cases e <;> rfl
@[simp] theorem State.raise_coreWait (e : CmdError) : (s.raise e).coreWait = s.coreWait := by cases e <;> rfl
@[simp] theorem State.raise_draws (e : CmdError) : (s.raise e).draws = s.draws := by cases e <;> rfl
@[simp] theorem State.raise_readData (e : CmdError) : (s.raise e).readData = s.readData := by cases e <;> rfl

/-! ## `State.takeAction` -/

@[simp] theorem State.takeAction_ctrl (rest : List HostAction) : (s.takeAction rest).ctrl = s.ctrl := rfl
@[simp] theorem State.takeAction_cmd (rest : List HostAction) : (s.takeAction rest).cmd = s.cmd := rfl
@[simp] theorem State.takeAction_status (rest : List HostAction) : (s.takeAction rest).status = s.status := rfl
@[simp] theorem State.takeAction_arg (rest : List HostAction) : (s.takeAction rest).arg = s.arg := rfl
@[simp] theorem State.takeAction_srcAddr (rest : List HostAction) : (s.takeAction rest).srcAddr = s.srcAddr := rfl
@[simp] theorem State.takeAction_srcLen (rest : List HostAction) : (s.takeAction rest).srcLen = s.srcLen := rfl
@[simp] theorem State.takeAction_bufAddr (rest : List HostAction) : (s.takeAction rest).bufAddr = s.bufAddr := rfl
@[simp] theorem State.takeAction_bufLen (rest : List HostAction) : (s.takeAction rest).bufLen = s.bufLen := rfl
@[simp] theorem State.takeAction_dstAddr (rest : List HostAction) : (s.takeAction rest).dstAddr = s.dstAddr := rfl
@[simp] theorem State.takeAction_dstLen (rest : List HostAction) : (s.takeAction rest).dstLen = s.dstLen := rfl
@[simp] theorem State.takeAction_res0 (rest : List HostAction) : (s.takeAction rest).res0 = s.res0 := rfl
@[simp] theorem State.takeAction_res1 (rest : List HostAction) : (s.takeAction rest).res1 = s.res1 := rfl
@[simp] theorem State.takeAction_res2 (rest : List HostAction) : (s.takeAction rest).res2 = s.res2 := rfl
@[simp] theorem State.takeAction_errReqLo (rest : List HostAction) : (s.takeAction rest).errReqLo = s.errReqLo := rfl
@[simp] theorem State.takeAction_errReqHi (rest : List HostAction) : (s.takeAction rest).errReqHi = s.errReqHi := rfl
@[simp] theorem State.takeAction_errAvail (rest : List HostAction) : (s.takeAction rest).errAvail = s.errAvail := rfl
@[simp] theorem State.takeAction_mem (rest : List HostAction) : (s.takeAction rest).mem = s.mem := rfl
@[simp] theorem State.takeAction_memSize (rest : List HostAction) : (s.takeAction rest).memSize = s.memSize := rfl
@[simp] theorem State.takeAction_fault (rest : List HostAction) : (s.takeAction rest).fault = s.fault := rfl
@[simp] theorem State.takeAction_hostQueue (rest : List HostAction) : (s.takeAction rest).hostQueue = rest := rfl
@[simp] theorem State.takeAction_coreWait (rest : List HostAction) : (s.takeAction rest).coreWait = s.coreWait - 1 := rfl
@[simp] theorem State.takeAction_draws (rest : List HostAction) : (s.takeAction rest).draws = s.draws := rfl
@[simp] theorem State.takeAction_readData (rest : List HostAction) : (s.takeAction rest).readData = s.readData := rfl

/-! ## `State.scramble` -/

@[simp] theorem State.scramble_ctrl : s.scramble.ctrl = s.ctrl := rfl
@[simp] theorem State.scramble_cmd : s.scramble.cmd = s.cmd := rfl
@[simp] theorem State.scramble_status : s.scramble.status = s.status := rfl
@[simp] theorem State.scramble_arg : s.scramble.arg = s.arg := rfl
@[simp] theorem State.scramble_srcAddr : s.scramble.srcAddr = s.srcAddr := rfl
@[simp] theorem State.scramble_srcLen : s.scramble.srcLen = s.srcLen := rfl
@[simp] theorem State.scramble_bufAddr : s.scramble.bufAddr = s.bufAddr := rfl
@[simp] theorem State.scramble_bufLen : s.scramble.bufLen = s.bufLen := rfl
@[simp] theorem State.scramble_dstAddr : s.scramble.dstAddr = s.dstAddr := rfl
@[simp] theorem State.scramble_dstLen : s.scramble.dstLen = s.dstLen := rfl
@[simp] theorem State.scramble_res0 : s.scramble.res0 = s.res0 := rfl
@[simp] theorem State.scramble_res1 : s.scramble.res1 = s.res1 := rfl
@[simp] theorem State.scramble_res2 : s.scramble.res2 = s.res2 := rfl
@[simp] theorem State.scramble_errReqLo : s.scramble.errReqLo = s.errReqLo := rfl
@[simp] theorem State.scramble_errReqHi : s.scramble.errReqHi = s.errReqHi := rfl
@[simp] theorem State.scramble_errAvail : s.scramble.errAvail = s.errAvail := rfl
@[simp] theorem State.scramble_memSize : s.scramble.memSize = s.memSize := rfl
@[simp] theorem State.scramble_fault : s.scramble.fault = s.fault := rfl
@[simp] theorem State.scramble_hostQueue : s.scramble.hostQueue = s.hostQueue := rfl
@[simp] theorem State.scramble_coreWait : s.scramble.coreWait = s.coreWait := rfl
@[simp] theorem State.scramble_draws : s.scramble.draws = s.draws + s.droppedRegion.bytesIn s.memSize := rfl
@[simp] theorem State.scramble_readData : s.scramble.readData = s.readData := rfl

/-! ## `State.placeCommand` -/

@[simp] theorem State.placeCommand_ctrl (w : Word) : (s.placeCommand w).ctrl = s.ctrl := rfl
@[simp] theorem State.placeCommand_cmd (w : Word) : (s.placeCommand w).cmd = w := rfl
@[simp] theorem State.placeCommand_status (w : Word) : (s.placeCommand w).status = acceptStatus s.status := rfl
@[simp] theorem State.placeCommand_arg (w : Word) : (s.placeCommand w).arg = s.arg := rfl
@[simp] theorem State.placeCommand_srcAddr (w : Word) : (s.placeCommand w).srcAddr = s.srcAddr := rfl
@[simp] theorem State.placeCommand_srcLen (w : Word) : (s.placeCommand w).srcLen = s.srcLen := rfl
@[simp] theorem State.placeCommand_bufAddr (w : Word) : (s.placeCommand w).bufAddr = s.bufAddr := rfl
@[simp] theorem State.placeCommand_bufLen (w : Word) : (s.placeCommand w).bufLen = s.bufLen := rfl
@[simp] theorem State.placeCommand_dstAddr (w : Word) : (s.placeCommand w).dstAddr = s.dstAddr := rfl
@[simp] theorem State.placeCommand_dstLen (w : Word) : (s.placeCommand w).dstLen = s.dstLen := rfl
@[simp] theorem State.placeCommand_res0 (w : Word) : (s.placeCommand w).res0 = s.res0 := rfl
@[simp] theorem State.placeCommand_res1 (w : Word) : (s.placeCommand w).res1 = s.res1 := rfl
@[simp] theorem State.placeCommand_res2 (w : Word) : (s.placeCommand w).res2 = s.res2 := rfl
@[simp] theorem State.placeCommand_errReqLo (w : Word) : (s.placeCommand w).errReqLo = s.errReqLo := rfl
@[simp] theorem State.placeCommand_errReqHi (w : Word) : (s.placeCommand w).errReqHi = s.errReqHi := rfl
@[simp] theorem State.placeCommand_errAvail (w : Word) : (s.placeCommand w).errAvail = s.errAvail := rfl
@[simp] theorem State.placeCommand_mem (w : Word) : (s.placeCommand w).mem = s.mem := rfl
@[simp] theorem State.placeCommand_memSize (w : Word) : (s.placeCommand w).memSize = s.memSize := rfl
@[simp] theorem State.placeCommand_fault (w : Word) : (s.placeCommand w).fault = none := rfl
@[simp] theorem State.placeCommand_hostQueue (w : Word) : (s.placeCommand w).hostQueue = s.hostQueue := rfl
@[simp] theorem State.placeCommand_coreWait (w : Word) : (s.placeCommand w).coreWait = 0 := rfl
@[simp] theorem State.placeCommand_draws (w : Word) : (s.placeCommand w).draws = s.draws := rfl
@[simp] theorem State.placeCommand_readData (w : Word) : (s.placeCommand w).readData = s.readData := rfl

/-! ## `State.loadProgram` -/

@[simp] theorem State.loadProgram_ctrl (p : List HostStmt) : (s.loadProgram p).ctrl = s.ctrl := rfl
@[simp] theorem State.loadProgram_cmd (p : List HostStmt) : (s.loadProgram p).cmd = s.cmd := rfl
@[simp] theorem State.loadProgram_status (p : List HostStmt) : (s.loadProgram p).status = s.status := rfl
@[simp] theorem State.loadProgram_arg (p : List HostStmt) : (s.loadProgram p).arg = s.arg := rfl
@[simp] theorem State.loadProgram_srcAddr (p : List HostStmt) : (s.loadProgram p).srcAddr = s.srcAddr := rfl
@[simp] theorem State.loadProgram_srcLen (p : List HostStmt) : (s.loadProgram p).srcLen = s.srcLen := rfl
@[simp] theorem State.loadProgram_bufAddr (p : List HostStmt) : (s.loadProgram p).bufAddr = s.bufAddr := rfl
@[simp] theorem State.loadProgram_bufLen (p : List HostStmt) : (s.loadProgram p).bufLen = s.bufLen := rfl
@[simp] theorem State.loadProgram_dstAddr (p : List HostStmt) : (s.loadProgram p).dstAddr = s.dstAddr := rfl
@[simp] theorem State.loadProgram_dstLen (p : List HostStmt) : (s.loadProgram p).dstLen = s.dstLen := rfl
@[simp] theorem State.loadProgram_res0 (p : List HostStmt) : (s.loadProgram p).res0 = s.res0 := rfl
@[simp] theorem State.loadProgram_res1 (p : List HostStmt) : (s.loadProgram p).res1 = s.res1 := rfl
@[simp] theorem State.loadProgram_res2 (p : List HostStmt) : (s.loadProgram p).res2 = s.res2 := rfl
@[simp] theorem State.loadProgram_errReqLo (p : List HostStmt) : (s.loadProgram p).errReqLo = s.errReqLo := rfl
@[simp] theorem State.loadProgram_errReqHi (p : List HostStmt) : (s.loadProgram p).errReqHi = s.errReqHi := rfl
@[simp] theorem State.loadProgram_errAvail (p : List HostStmt) : (s.loadProgram p).errAvail = s.errAvail := rfl
@[simp] theorem State.loadProgram_mem (p : List HostStmt) : (s.loadProgram p).mem = s.mem := rfl
@[simp] theorem State.loadProgram_memSize (p : List HostStmt) : (s.loadProgram p).memSize = s.memSize := rfl
@[simp] theorem State.loadProgram_fault (p : List HostStmt) : (s.loadProgram p).fault = s.fault := rfl
@[simp] theorem State.loadProgram_hostQueue (p : List HostStmt) : (s.loadProgram p).hostQueue = hostProgram p := rfl
@[simp] theorem State.loadProgram_coreWait (p : List HostStmt) : (s.loadProgram p).coreWait = s.coreWait := rfl
@[simp] theorem State.loadProgram_draws (p : List HostStmt) : (s.loadProgram p).draws = s.draws := rfl
@[simp] theorem State.loadProgram_readData (p : List HostStmt) : (s.loadProgram p).readData = s.readData := rfl

end Sys2Proof.Machine
end

