-- ==== Sys2Proof/Laws/Status.lean ====
section
/-! SUPPORT. The fields of `STATUS` after an accept, a completion and a dropped write, and what the two
completions of a command do (R102, R103, R106, R107). -/

namespace Sys2Proof.Machine

open Sys2Proof

/-! ## Fields -/

@[simp] theorem statusBusy_complete (c : BitVec 8) (w : Word) :
    statusBusy (completeStatus c w) = false := by
  simp [statusBusy, completeStatus, setStatusDone, setStatusBusy, setStatusBit, setStatusErr]

@[simp] theorem statusDone_complete (c : BitVec 8) (w : Word) :
    statusDone (completeStatus c w) = true := by
  simp [statusDone, completeStatus, setStatusDone, setStatusBit]

@[simp] theorem statusWbusy_complete (c : BitVec 8) (w : Word) :
    statusWbusy (completeStatus c w) = statusWbusy w := by
  simp [statusWbusy, completeStatus, setStatusDone, setStatusBusy, setStatusBit, setStatusErr]

@[simp] theorem statusErr_complete (c : BitVec 8) (w : Word) :
    statusErr (completeStatus c w) = c := by
  apply BitVec.eq_of_getLsbD_eq
  intro i hi
  have : i = 0 ∨ i = 1 ∨ i = 2 ∨ i = 3 ∨ i = 4 ∨ i = 5 ∨ i = 6 ∨ i = 7 := by omega
  rcases this with rfl | rfl | rfl | rfl | rfl | rfl | rfl | rfl <;>
    simp [statusErr, completeStatus, setStatusDone, setStatusBusy, setStatusBit, setStatusErr]

@[simp] theorem reserved_complete (c : BitVec 8) (w : Word) :
    completeStatus c w &&& statusReservedMask = w &&& statusReservedMask := by
  have key : ∀ x : Word, setStatusErr c x &&& statusReservedMask = x &&& statusReservedMask := by
    intro x
    apply BitVec.eq_of_getLsbD_eq
    intro i hi
    interval_cases i <;> simp [setStatusErr, statusReservedMask]
  have bit : ∀ (x : Word) (b : Bool) (j : Nat), j < 3 →
      setStatusBit j b x &&& statusReservedMask = x &&& statusReservedMask := by
    intro x b j hj
    apply BitVec.eq_of_getLsbD_eq
    intro i hi
    interval_cases j <;> cases b <;> interval_cases i <;> simp [setStatusBit, statusReservedMask]
  rw [completeStatus, setStatusDone, bit _ _ _ (by omega), setStatusBusy, bit _ _ _ (by omega), key]

@[simp] theorem statusBusy_accept (w : Word) : statusBusy (acceptStatus w) = true := by
  simp [statusBusy, acceptStatus, setStatusDone, setStatusBusy, setStatusWbusy, setStatusBit,
    setStatusErr]

@[simp] theorem statusDone_accept (w : Word) : statusDone (acceptStatus w) = false := by
  simp [statusDone, acceptStatus, setStatusDone, setStatusBusy, setStatusWbusy, setStatusBit,
    setStatusErr]

@[simp] theorem statusWbusy_accept (w : Word) : statusWbusy (acceptStatus w) = false := by
  simp [statusWbusy, acceptStatus, setStatusWbusy, setStatusBit, setStatusErr]

@[simp] theorem statusErr_accept (w : Word) : statusErr (acceptStatus w) = 0x00 := by
  apply BitVec.eq_of_getLsbD_eq
  intro i hi
  interval_cases i <;> simp [statusErr, acceptStatus, setStatusErr]

@[simp] theorem statusBusy_wbusy (b : Bool) (w : Word) :
    statusBusy (setStatusWbusy b w) = statusBusy w := by
  cases b <;> simp [statusBusy, setStatusWbusy, setStatusBit]

@[simp] theorem statusDone_wbusy (b : Bool) (w : Word) :
    statusDone (setStatusWbusy b w) = statusDone w := by
  cases b <;> simp [statusDone, setStatusWbusy, setStatusBit]

@[simp] theorem statusWbusy_wbusy (b : Bool) (w : Word) :
    statusWbusy (setStatusWbusy b w) = b := by
  cases b <;> simp [statusWbusy, setStatusWbusy, setStatusBit]

@[simp] theorem statusErr_wbusy (b : Bool) (w : Word) :
    statusErr (setStatusWbusy b w) = statusErr w := by
  apply BitVec.eq_of_getLsbD_eq
  intro i hi
  cases b <;> interval_cases i <;> simp [statusErr, setStatusWbusy, setStatusBit]

/-- Setting a bit below 3 leaves the reserved bits. -/
theorem reserved_setBit (j : Nat) (hj : j < 3) (b : Bool) (w : Word) :
    setStatusBit j b w &&& statusReservedMask = w &&& statusReservedMask := by
  apply BitVec.eq_of_getLsbD_eq
  intro i hi
  interval_cases j <;> cases b <;> interval_cases i <;> simp [setStatusBit, statusReservedMask]

@[simp] theorem reserved_err (c : BitVec 8) (w : Word) :
    setStatusErr c w &&& statusReservedMask = w &&& statusReservedMask := by
  apply BitVec.eq_of_getLsbD_eq
  intro i hi
  interval_cases i <;> simp [setStatusErr, statusReservedMask]

@[simp] theorem reserved_wbusy (b : Bool) (w : Word) :
    setStatusWbusy b w &&& statusReservedMask = w &&& statusReservedMask :=
  reserved_setBit 2 (by omega) b w

@[simp] theorem reserved_accept (w : Word) :
    acceptStatus w &&& statusReservedMask = w &&& statusReservedMask := by
  rw [acceptStatus, reserved_err, reserved_wbusy, setStatusDone, reserved_setBit 1 (by omega),
    setStatusBusy, reserved_setBit 0 (by omega)]

/-! ## Completions -/

theorem statusCompleted_of_eq {c : BitVec 8} {s t : State}
    (h : t.status = completeStatus c s.status) : StatusCompleted c s t := by
  constructor <;> simp [h]

/-- No core step writes what R111 leaves out, whichever way the command ends. -/
theorem State.complete_frame (c : Completion) (s : State) : CoreFrame s (s.complete c) := by
  cases c with
  | finish m r0 r1 r2 => constructor <;> simp [State.complete]
  | raise e => constructor <;> simp [State.complete]

theorem State.raise_frame (e : CmdError) (s : State) : CoreFrame s (s.raise e) :=
  State.complete_frame (.raise e) s

/-- `finish` with results below 2^32 (R106). -/
theorem State.finish_succeeded (m : Memory) {r0 r1 r2 : Nat} (s : State) (h0 : r0 < 2 ^ 32)
    (h1 : r1 < 2 ^ 32) (h2 : r2 < 2 ^ 32) : Succeeded s (s.finish m r0 r1 r2) r0 r1 r2 where
  frame := State.complete_frame (.finish m r0 r1 r2) s
  status := statusCompleted_of_eq (by simp)
  res0 := by rw [State.finish_res0, BitVec.toNat_ofNat, Nat.mod_eq_of_lt h0]
  res1 := by rw [State.finish_res1, BitVec.toNat_ofNat, Nat.mod_eq_of_lt h1]
  res2 := by rw [State.finish_res2, BitVec.toNat_ofNat, Nat.mod_eq_of_lt h2]
  errReqLo := by simp
  errReqHi := by simp
  errAvail := by simp

/-- `raise`, with a required length that fits the 64 bits of `ERR_REQ` (R107, R40). -/
theorem State.raise_failed (e : CmdError) (s : State)
    (h : ∀ req avail, errorLengths e = some (req, avail) → req < 2 ^ 64) :
    Failed s (s.raise e) (errorCode e) (errorLengths e) where
  frame := State.raise_frame e s
  status := statusCompleted_of_eq (by simp)
  mem := by simp
  res0 := by simp
  res1 := by simp
  res2 := by simp
  recorded := by
    intro req avail he
    have hr := h req avail he
    have hq : (s.raise e).errReqLo = BitVec.ofNat 32 (req % 2 ^ 32) ∧
        (s.raise e).errReqHi = BitVec.ofNat 32 (req / 2 ^ 32) ∧ (s.raise e).errAvail = avail := by
      simp [State.raise, he]
    simp only [State.errReq, hq.1, hq.2.1, hq.2.2, BitVec.toNat_ofNat, and_true]
    omega
  kept := by
    intro he
    simp [State.raise, he]

/-- The common checks, said once: what each answer means (R105). -/
theorem commonChecks_eq (i : Instr) (s : State) :
    (commonChecks i s = some .range ∧ ∃ r ∈ regionsOf i s, ¬ r.inRange s.memSize) ∨
    ((∀ r ∈ regionsOf i s, r.inRange s.memSize) ∧
      ((commonChecks i s = some .overlap ∧ ∃ p ∈ noOverlapOf i s, p.1.overlaps p.2) ∨
       (commonChecks i s = none ∧ ∀ p ∈ noOverlapOf i s, ¬ p.1.overlaps p.2))) := by
  unfold commonChecks
  split
  · left; exact ⟨rfl, by assumption⟩
  · right
    rename_i h
    push Not at h
    refine ⟨h, ?_⟩
    split
    · left; exact ⟨rfl, by assumption⟩
    · right
      rename_i h2
      push Not at h2
      exact ⟨rfl, fun p hp => by simpa using h2 p hp⟩

theorem State.runCommand_some {i : Instr} {s : State} {e : CmdError} (c : Completion)
    (h : commonChecks i s = some e) : s.runCommand i c = s.raise e := by
  simp [State.runCommand, h]

theorem State.runCommand_none {i : Instr} {s : State} (c : Completion)
    (h : commonChecks i s = none) : s.runCommand i c = s.complete c := by
  simp [State.runCommand, h]

/-- A command either raises in its common checks or ends as its body says. -/
theorem State.runCommand_cases (i : Instr) (s : State) (c : Completion) :
    (∃ e, commonChecks i s = some e ∧ s.runCommand i c = s.raise e) ∨
    (commonChecks i s = none ∧ s.runCommand i c = s.complete c) := by
  cases h : commonChecks i s with
  | some e => exact .inl ⟨e, rfl, State.runCommand_some c h⟩
  | none => exact .inr ⟨rfl, State.runCommand_none c h⟩

end Sys2Proof.Machine
end

