-- ==== Sys2Proof/Laws/Commands.lean ====
section
/-! SUPPORT. What a command can do, said once: it is `runCommand` of its body, and its body raises one of
its own errors or finishes with the memory written inside its own region. -/

namespace Sys2Proof.Machine

open Sys2Proof

/-- Every command answers a next state: its common checks, then some body (R104). -/
theorem exec_runCommand (i : Instr) (s : State) : ∃ c, exec i s = .next (s.runCommand i c) := by
  cases i <;> exact ⟨_, rfl⟩

/-- A command raises an error or finishes, from the state it starts in (R104). -/
theorem exec_cases {i : Instr} {s t : State} (h : exec i s = .next t) :
    (∃ e, t = s.raise e) ∨ ∃ m r0 r1 r2, t = s.finish m r0 r1 r2 := by
  obtain ⟨c, hc⟩ := exec_runCommand i s
  rw [hc] at h
  cases h
  rcases State.runCommand_cases i s c with ⟨e, -, he⟩ | ⟨-, he⟩
  · exact .inl ⟨e, he⟩
  · cases c with
    | finish m r0 r1 r2 => exact .inr ⟨m, r0, r1, r2, he⟩
    | raise e => exact .inl ⟨e, he⟩

theorem exec_frame {i : Instr} {s t : State} (h : exec i s = .next t) : CoreFrame s t := by
  rcases exec_cases h with ⟨e, rfl⟩ | ⟨m, r0, r1, r2, rfl⟩
  · exact State.raise_frame e s
  · exact State.complete_frame (.finish m r0 r1 r2) s

/-- The loop of EMBED keeps the canonical form (R181). -/
theorem embedLoop_wf {m : Memory} (h : Memory.wf m) (frame : BitSeq) (a : Nat) :
    Memory.wf (embedLoop frame a m).1 := by
  induction frame generalizing a m with
  | nil => exact h
  | cons f fs ih =>
    simp only [embedLoop]
    split
    · exact ih (Memory.write_wf h _ _) _
    · exact ih h _

/-- The loop of EMBED lists new cells only in the carrier bytes of the frame. -/
theorem mem_embedLoop {m : Memory} {frame : BitSeq} {a : Nat} {c : Host.Cell}
    (h : c ∈ (embedLoop frame a m).1) : (a ≤ c.1 ∧ c.1 < a + frame.length) ∨ c ∈ m := by
  induction frame generalizing a m with
  | nil => exact .inr h
  | cons f fs ih =>
    simp only [embedLoop] at h
    simp only [List.length_cons]
    split at h
    · rcases ih h with h | h
      · left; omega
      · rcases Memory.mem_write h with ⟨rfl, -⟩ | h
        · left; simp
        · exact .inr h
    · rcases ih h with h | h
      · left; omega
      · exact .inr h

/-- Bytes outside the frame's carrier bytes read as before. -/
theorem read_embedLoop_outside {m : Memory} (h : Memory.wf m) {frame : BitSeq} {a b : Nat}
    (hb : b < a ∨ a + frame.length ≤ b) :
    Memory.read (embedLoop frame a m).1 b = Memory.read m b := by
  induction frame generalizing a m with
  | nil => rfl
  | cons f fs ih =>
    simp only [List.length_cons] at hb
    simp only [embedLoop]
    split
    · rw [ih (Memory.write_wf h _ _) (by omega), Memory.read_write_ne h _ (by omega)]
    · exact ih h (by omega)

/-- A carrier byte of the frame reads as R180 says. -/
theorem read_embedLoop_inside {m : Memory} (h : Memory.wf m) {frame : BitSeq} {a i : Nat}
    (hi : i < frame.length) :
    Memory.read (embedLoop frame a m).1 (a + i) = embedByte (Memory.read m (a + i)) frame[i] := by
  induction frame generalizing a m i with
  | nil => simp at hi
  | cons f fs ih =>
    simp only [List.length_cons] at hi
    simp only [embedLoop]
    cases i with
    | zero =>
      split
      · rw [read_embedLoop_outside (Memory.write_wf h _ _) (by omega)]
        simpa using Memory.read_write_same h a _
      · rename_i hd
        rw [read_embedLoop_outside h (by omega)]
        simpa using (embedByte_of_agrees (by simpa using hd)).symm
    | succ i =>
      rw [show a + (i + 1) = a + 1 + i by omega]
      split
      · rw [ih (Memory.write_wf h _ _) (by omega), Memory.read_write_ne h _ (by omega)]
        simp
      · rw [ih h (by omega)]
        simp

/-- The loop counts at most one change per frame bit (R181: `c <= F`). -/
theorem embedLoop_count_le (frame : BitSeq) (a : Nat) (m : Memory) :
    (embedLoop frame a m).2 ≤ frame.length := by
  induction frame generalizing a m with
  | nil => exact le_refl _
  | cons f fs ih =>
    simp only [embedLoop, List.length_cons]
    split
    · exact Nat.succ_le_succ (ih _ _)
    · exact Nat.le_succ_of_le (ih _ _)

end Sys2Proof.Machine
end

