-- ==== Sys2Proof/Laws/PerInstr.lean ====
section
/-! SUPPORT. Statements for all commands, made per command: the decoder gives each command back from its
word. -/

namespace Sys2Proof.Laws.EncodeDecode

open Sys2Proof

/-- The command is well formed, and decoding its word gives it back (R82, R85). -/
def Statement (i : Instr) : Prop :=
  i.wellFormed = true ∧ wordWellFormed (encode i) = true ∧ decode (encode i) = .ok i

theorem bytetobits : Statement .bytetobits := ⟨rfl, rfl, rfl⟩
theorem bitstobyte : Statement .bitstobyte := ⟨rfl, rfl, rfl⟩
theorem bytestobits : Statement .bytestobits := ⟨rfl, rfl, rfl⟩
theorem bitstobytes : Statement .bitstobytes := ⟨rfl, rfl, rfl⟩
theorem extractlsb : Statement .extractlsb := ⟨rfl, rfl, rfl⟩
theorem lenhdrbits : Statement .lenhdrbits := ⟨rfl, rfl, rfl⟩
theorem buildframe : Statement .buildframe := ⟨rfl, rfl, rfl⟩
theorem parseheader : Statement .parseheader := ⟨rfl, rfl, rfl⟩
theorem embed : Statement .embed := ⟨rfl, rfl, rfl⟩
theorem extract : Statement .extract := ⟨rfl, rfl, rfl⟩

end Sys2Proof.Laws.EncodeDecode
end

