-- ==== Sys2Proof/Laws/Step.lean ====
section
/-! SUPPORT. What a step can do, said once: a core step, a host action, or rest (R72, R104). -/

namespace Sys2Proof.Machine

open Sys2Proof

/-! ## Taking a host action off the queue -/

@[simp] theorem busy_takeAction (rest : List HostAction) (s : State) :
    (s.takeAction rest).busy = s.busy := rfl

@[simp] theorem regionsOf_takeAction (i : Instr) (rest : List HostAction) (s : State) :
    regionsOf i (s.takeAction rest) = regionsOf i s := by cases i <;> rfl

@[simp] theorem owned_takeAction (rest : List HostAction) (s : State) (a : Nat) :
    (s.takeAction rest).owned a = s.owned a := by
  simp [State.owned, State.ownedRegions]

/-- A register write while busy is dropped and sets WBUSY (R103). -/
theorem State.writeOffset_busy {s : State} (h : s.busy = true) (off : BitVec 8) (v : Word) :
    s.writeOffset off v = { s with status := setStatusWbusy true s.status } := by
  simp [State.writeOffset, h]

/-! ## Steps -/

theorem coreMoves_iff (s : State) : s.coreMoves = true ↔ CoreTurn s := by
  simp [State.coreMoves, State.coreEnabled, CoreTurn, and_assoc]

theorem CoreTurn.step_eq {s : State} (h : CoreTurn s) : step s = coreStep s := by
  simp [step, turn, (coreMoves_iff s).2 h]

theorem HostTurn.not_coreTurn {s : State} {a : HostAction} {rest : List HostAction}
    (h : HostTurn s a rest) : ¬ CoreTurn s := by
  rintro ⟨hb, hf, hq⟩
  obtain ⟨hl, hc⟩ := h
  simp_all

theorem HostTurn.step_eq {s : State} {a : HostAction} {rest : List HostAction}
    (h : HostTurn s a rest) : step s = hostAct a (s.takeAction rest) := by
  have hm : s.coreMoves = false := by
    rw [← Bool.not_eq_true, coreMoves_iff]
    exact h.not_coreTurn
  simp [step, turn, hm, h.1]

/-- The inversion of `step`. -/
theorem step_cases (s : State) :
    (CoreTurn s ∧ step s = coreStep s) ∨
    (∃ a rest, HostTurn s a rest ∧ step s = hostAct a (s.takeAction rest)) ∨
    (s.hostQueue = [] ∧ ¬ CoreTurn s ∧ step s = restStep s) := by
  by_cases h : CoreTurn s
  · exact .inl ⟨h, h.step_eq⟩
  · right
    cases hq : s.hostQueue with
    | nil =>
      right
      refine ⟨rfl, h, ?_⟩
      have hm : s.coreMoves = false := by rwa [← Bool.not_eq_true, coreMoves_iff]
      simp [step, turn, hm, hq]
    | cons a rest =>
      left
      have ht : HostTurn s a rest := by
        refine ⟨hq, ?_⟩
        by_contra hc
        push Not at hc
        exact h ⟨by simpa using hc.1, hc.2.1, .inr hc.2.2⟩
      exact ⟨a, rest, ht, ht.step_eq⟩

/-- A core step completes a command (R104): E_ILLEGAL, or the decoded command's own effect. -/
theorem coreStep_cases {s t : State} (h : coreStep s = .next t) :
    t = s.raise .illegal ∨ ∃ i, decode s.cmd = .ok i ∧ exec i s = .next t := by
  unfold coreStep at h
  split at h
  · exact .inr ⟨_, by assumption, h⟩
  · cases h
    exact .inl rfl

/-- What an idle register write leaves alone (R103). -/
theorem State.storeReg_frame (r : RegName) (v : Word) (s : State) :
    (s.storeReg r v).mem = s.mem ∧ (s.storeReg r v).memSize = s.memSize ∧
    (s.storeReg r v).fault = s.fault ∧ (s.storeReg r v).hostQueue = s.hostQueue ∧
    (s.storeReg r v).readData = s.readData ∧ (s.storeReg r v).res0 = s.res0 ∧
    (s.storeReg r v).res1 = s.res1 ∧ (s.storeReg r v).res2 = s.res2 ∧
    (s.storeReg r v).errReqLo = s.errReqLo ∧ (s.storeReg r v).errReqHi = s.errReqHi ∧
    (s.storeReg r v).errAvail = s.errAvail ∧
    ((s.storeReg r v).status = s.status ∨
      (r = .cmd ∧ (s.storeReg r v).status = acceptStatus s.status)) := by
  cases r <;> simp [State.storeReg]

/-- What a register write leaves alone, busy or not (R103). -/
theorem State.writeOffset_frame (off : BitVec 8) (v : Word) (s : State) :
    (s.writeOffset off v).mem = s.mem ∧ (s.writeOffset off v).memSize = s.memSize ∧
    (s.writeOffset off v).fault = s.fault ∧ (s.writeOffset off v).hostQueue = s.hostQueue ∧
    (s.writeOffset off v).readData = s.readData ∧ (s.writeOffset off v).res0 = s.res0 ∧
    (s.writeOffset off v).res1 = s.res1 ∧ (s.writeOffset off v).res2 = s.res2 ∧
    (s.writeOffset off v).errReqLo = s.errReqLo ∧ (s.writeOffset off v).errReqHi = s.errReqHi ∧
    (s.writeOffset off v).errAvail = s.errAvail := by
  unfold State.writeOffset
  split
  · simp
  · split
    · obtain ⟨h1, h2, h3, h4, h5, h6, h7, h8, h9, h10, h11, -⟩ := State.storeReg_frame ‹_› v s
      exact ⟨h1, h2, h3, h4, h5, h6, h7, h8, h9, h10, h11⟩
    · simp

end Sys2Proof.Machine
end

