-- ==== Sys2Proof/Tests/Slice0.lean ====
section
/-! SUPPORT. Tests. Every expected value is one of spec/95_test_vectors.md (V1 to V105), or worked out by
hand from the rule named beside it; then one witness per statement of Obligations.lean that has
hypotheses: states and operands that meet them, at the boundary values where clauses meet. -/

namespace Sys2Proof.Tests

open Sys2Proof Sys2Proof.Machine

/-! ## Well-formedness: an ill-formed term for each check -/

/-- R84: 0x109 has a bit of `word[31:8]` set, 0x00 and 0x0B are no opcodes (V96). -/
theorem test_ill_formed_words :
    reservedClear 0x00000109 = false ∧ opcodeAssigned 0x00000109 = true ∧
    wordWellFormed 0x00000109 = false ∧
    reservedClear 0x00000000 = true ∧ opcodeAssigned 0x00000000 = false ∧
    wordWellFormed 0x00000000 = false ∧
    opcodeAssigned 0x0000000B = false ∧ wordWellFormed 0x0000000B = false ∧
    wordWellFormed 0x00000001 = true ∧ wordWellFormed 0x0000000A = true := by decide

/-- R62: 8-bit and 16-bit accesses, and offsets that are no multiple of 4, are ill formed (V102). -/
theorem test_ill_formed_accesses :
    accessWidthOk 8 = false ∧ regAccessWellFormed 8 0x00 = false ∧ regAccessWellFormed 16 0x04 = false ∧
    accessAligned 0x01 = false ∧ regAccessWellFormed 32 0x02 = false ∧
    regAccessWellFormed 32 0xFC = true := by decide

/-! ## Decoding: the words of R82 written out bit by bit, reserved field first -/

/-- The BitPacking unit's six words. -/
theorem test_decode_bitpacking :
    decode 0b00000000000000000000000000000001 = .ok .bytetobits ∧
    decode 0b00000000000000000000000000000010 = .ok .bitstobyte ∧
    decode 0b00000000000000000000000000000011 = .ok .bytestobits ∧
    decode 0b00000000000000000000000000000100 = .ok .bitstobytes ∧
    decode 0b00000000000000000000000000000101 = .ok .extractlsb ∧
    decode 0b00000000000000000000000000000110 = .ok .lenhdrbits := ⟨rfl, rfl, rfl, rfl, rfl, rfl⟩

/-- The FrameCodec's two words, the Embedder's and the Extractor's. -/
theorem test_decode_frames :
    decode 0b00000000000000000000000000000111 = .ok .buildframe ∧
    decode 0b00000000000000000000000000001000 = .ok .parseheader ∧
    decode 0b00000000000000000000000000001001 = .ok .embed ∧
    decode 0b00000000000000000000000000001010 = .ok .extract := ⟨rfl, rfl, rfl, rfl⟩

/-- R84: words next to the map, and a legal opcode under each end of the reserved field. -/
theorem test_decode_illegal :
    decode 0b00000000000000000000000000000000 = .error .opcodeUnassigned ∧
    decode 0b00000000000000000000000000001011 = .error .opcodeUnassigned ∧
    decode 0b00000000000000000000000100001001 = .error .reservedBitsSet ∧
    decode 0b10000000000000000000000000000001 = .error .reservedBitsSet := ⟨rfl, rfl, rfl, rfl⟩

/-- The encoder on both ends of the map (R82). -/
theorem test_encode : encode .bytetobits = 0x00000001 ∧ encode .extract = 0x0000000A := by decide

/-! ## States for the tests -/

/-- After reset, with the MEM_SIZE and the all-zero memory of 95_test_vectors.md section 0. -/
def base : State := { State.reset with memSize := 0x10000, mem := [] }

/-- `base` with a header select and an `ARG`. -/
def withArg (ctrl arg : Word) : State := { base with ctrl := ctrl, arg := arg }

/-- The state with `SRC` and `DST`. -/
def srcDst (sa sl da dl : Word) (s : State) : State :=
  { s with srcAddr := sa, srcLen := sl, dstAddr := da, dstLen := dl }

/-- The state with `SRC` and `BUF`. -/
def srcBuf (sa sl ba bl : Word) (s : State) : State :=
  { s with srcAddr := sa, srcLen := sl, bufAddr := ba, bufLen := bl }

/-- The state with `BUF` and `DST`. -/
def bufDst (ba bl da dl : Word) (s : State) : State :=
  { s with bufAddr := ba, bufLen := bl, dstAddr := da, dstLen := dl }

/-- The state with bytes in memory. -/
def put (a : Nat) (bytes : List Byte) (s : State) : State :=
  { s with mem := Memory.writeAll s.mem a bytes }

/-- The state with a command pending. -/
def pending (w : Word) (wait : Nat) (s : State) : State :=
  { s with cmd := w, status := 0x00000001, coreWait := wait }

/-- The state with a host that has these actions left. -/
def hostDoes (q : List HostAction) (s : State) : State := { s with hostQueue := q }

/-- The outcome is a next state with this property. -/
def answers (o : Host.Outcome State Fault Refusal) (p : State → Bool) : Bool :=
  match o with
  | .next t => p t
  | .fault _ => false
  | .refused _ => false

/-- `STATUS` and the three results. -/
def outcome (t : State) : List Nat := [t.status.toNat, t.res0.toNat, t.res1.toNat, t.res2.toNat]

/-- `STATUS`, `ERR_REQ` and `ERR_AVAIL`. -/
def errors (t : State) : List Nat := [t.status.toNat, t.errReq, t.errAvail.toNat]

/-- `n` steps, each of which must answer a next state, and then a property. -/
def after (n : Nat) (s : State) (p : State → Bool) : Bool :=
  match n with
  | 0 => p s
  | n + 1 => match step s with
    | .next t => after n t p
    | .fault _ => false
    | .refused _ => false

/-! ## One command, one step -/

/-- V15 and V16: MSB first, and the byte past the eighth untouched. -/
theorem test_bytetobits :
    answers (exec .bytetobits (srcDst 0 0 0x200 9 (put 0x208 [0xEE] (withArg 1 0xA5)))) (fun t =>
      outcome t == [0x2, 8, 0, 0] &&
      Memory.readAll t.mem 0x200 9 == [1, 0, 1, 0, 0, 1, 0, 1, 0xEE]) = true := by decide

/-- V20: the range check comes before the argument check; V19: the required and the available length. -/
theorem test_bytetobits_errors :
    answers (exec .bytetobits (srcDst 0 0 0xFFFC 8 (withArg 1 0x100))) (fun t =>
      errors t == [0x402, 0, 0]) = true ∧
    answers (exec .bytetobits (srcDst 0 0 0x200 7 (withArg 1 0x41))) (fun t =>
      errors t == [0x902, 8, 7] && t.mem == []) = true := by decide

/-- V21. -/
theorem test_bitstobyte :
    answers (exec .bitstobyte (srcDst 0x200 8 0 0 (put 0x200 [1, 0, 1, 0, 0, 1, 0, 1] base))) (fun t =>
      outcome t == [0x2, 0xA5, 0, 0]) = true := by decide

/-- V26 and V28. -/
theorem test_bitstobyte_errors :
    answers (exec .bitstobyte (srcDst 0x200 9 0 0 base)) (fun t => errors t == [0x602, 0, 0]) = true ∧
    answers (exec .bitstobyte (srcDst 0x200 8 0 0 (put 0x200 [0, 1, 0, 2, 0, 0, 0, 1] base))) (fun t =>
      errors t == [0xA02, 0, 0]) = true := by decide

/-- V29. -/
theorem test_bytestobits :
    answers (exec .bytestobits (srcDst 0x100 2 0x200 32 (put 0x100 [0x12, 0x34] base))) (fun t =>
      outcome t == [0x2, 16, 0, 0] &&
      Memory.readAll t.mem 0x200 17 == [0, 0, 0, 1, 0, 0, 1, 0, 0, 0, 1, 1, 0, 1, 0, 0, 0]) = true := by
  decide

/-- V34: a required length of 2^32; V43: overlap before capacity. -/
theorem test_bytestobits_errors :
    answers (exec .bytestobits (srcDst 0 0x20000000 0x20000000 0xE0000000
      { base with memSize := 2 ^ 32 })) (fun t =>
        errors t == [0x902, 2 ^ 32, 0xE0000000] && t.errReqHi == 1 && t.errReqLo == 0) = true ∧
    answers (exec .bytestobits (srcDst 0x100 4 0x100 4 base)) (fun t =>
      errors t == [0x502, 0, 0]) = true := by decide

/-- V44: the trailing 3 elements are dropped. -/
theorem test_bitstobytes :
    answers (exec .bitstobytes
      (srcDst 0x200 11 0x300 4 (put 0x200 [0, 1, 0, 0, 0, 0, 0, 1, 1, 1, 1] base))) (fun t =>
        outcome t == [0x2, 1, 3, 0] && Memory.readAll t.mem 0x300 2 == [0x41, 0]) = true := by
  decide

/-- V50: capacity before the elements; V51: the dropped ninth element is checked. -/
theorem test_bitstobytes_errors :
    answers (exec .bitstobytes
      (srcDst 0x200 9 0x300 0 (put 0x200 [0, 1, 0, 5, 0, 0, 0, 1, 0] base))) (fun t =>
        errors t == [0x902, 1, 0]) = true ∧
    answers (exec .bitstobytes
      (srcDst 0x200 9 0x300 4 (put 0x200 [0, 1, 0, 0, 0, 0, 0, 1, 2] base))) (fun t =>
        errors t == [0xA02, 0, 0]) = true := by decide

/-- V52. -/
theorem test_extractlsb :
    answers (exec .extractlsb
      (srcDst 0x100 6 0x200 6 (put 0x100 [0x00, 0x01, 0xFE, 0xFF, 0x80, 0x7F] base))) (fun t =>
        outcome t == [0x2, 6, 0, 0] && Memory.readAll t.mem 0x200 6 == [0, 1, 0, 1, 0, 1]) = true := by
  decide

/-- V53 and V54. -/
theorem test_extractlsb_errors :
    answers (exec .extractlsb (srcDst 0x100 6 0x200 5 base)) (fun t => errors t == [0x902, 6, 5]) = true ∧
    answers (exec .extractlsb (srcDst 0x100 6 0x100 6 base)) (fun t => errors t == [0x502, 0, 0]) = true := by
  decide

/-- V62: 0x12345678 with w = 32; V61: 0x41 with w = 8. -/
theorem test_lenhdrbits :
    answers (exec .lenhdrbits (srcDst 0 0 0x400 32 (withArg 1 0x12345678))) (fun t =>
      outcome t == [0x2, 32, 0, 0] &&
      Memory.readAll t.mem 0x400 32 ==
        [0, 0, 0, 1, 0, 0, 1, 0] ++ [0, 0, 1, 1, 0, 1, 0, 0] ++
        [0, 1, 0, 1, 0, 1, 1, 0] ++ [0, 1, 1, 1, 1, 0, 0, 0]) = true ∧
    answers (exec .lenhdrbits (srcDst 0 0 0x400 32 (withArg 0 0x41))) (fun t =>
      outcome t == [0x2, 8, 0, 0] && Memory.readAll t.mem 0x400 8 == [0, 1, 0, 0, 0, 0, 0, 1]) = true := by
  decide

/-- V57 and V60. -/
theorem test_lenhdrbits_errors :
    answers (exec .lenhdrbits (srcDst 0 0 0x400 32 (withArg 0 256))) (fun t =>
      errors t == [0x702, 0, 0]) = true ∧
    answers (exec .lenhdrbits (srcDst 0 0 0x400 31 (withArg 1 5))) (fun t =>
      errors t == [0x902, 32, 31]) = true := by decide

/-- V63. -/
theorem test_buildframe :
    answers (exec .buildframe (srcDst 0x100 1 0x400 16 (put 0x100 [0x41] (withArg 0 0)))) (fun t =>
      outcome t == [0x2, 16, 8, 0] &&
      Memory.readAll t.mem 0x400 16 == [0, 0, 0, 0, 1, 0, 0, 0, 0, 1, 0, 0, 0, 0, 0, 1]) = true := by
  decide

/-- V69; V71: a required length of 2^32 + 24. -/
theorem test_buildframe_errors :
    answers (exec .buildframe (srcDst 0x100 32 0x400 300 (withArg 0 0))) (fun t =>
      errors t == [0x802, 0, 0]) = true ∧
    answers (exec .buildframe (srcDst 0 0x1FFFFFFF 0x20000000 0xE0000000
      { base with memSize := 2 ^ 32 })) (fun t =>
        errors t == [0x902, 2 ^ 32 + 24, 0xE0000000] && t.errReqHi == 1 && t.errReqLo == 0x18) = true := by
  decide

/-- V72; V77: the payload offset wraps at 2^32. -/
theorem test_parseheader :
    answers (exec .parseheader (srcBuf 0 0 0x1000 20
      (put 0x1000 [0x10, 0x10, 0x12, 0x12, 0x15, 0x14, 0x16, 0x16] (withArg 0 0)))) (fun t =>
        outcome t == [0x2, 8, 0x1008, 12]) = true ∧
    answers (exec .parseheader (srcBuf 0 0 0xFFFFFFE0 32 { base with memSize := 2 ^ 32 })) (fun t =>
      outcome t == [0x2, 0, 0, 0]) = true := by decide

/-- V73. -/
theorem test_parseheader_errors :
    answers (exec .parseheader (srcBuf 0 0 0x1000 5 (withArg 0 0))) (fun t =>
      errors t == [0x202, 8, 5]) = true := by decide

/-- V85: a carrier byte of each parity under each frame bit, and 0xFF and 0x00 at the ends. -/
theorem test_embed :
    answers (exec .embed (srcBuf 0x100 1 0x1000 16 (put 0x100 [0xAA]
      (put 0x1008 [0xFE, 0xFF, 0xFF, 0x00, 0x00, 0x01, 0x80, 0x81] (withArg 0 0))))) (fun t =>
        outcome t == [0x2, 16, 7, 8] &&
        Memory.readAll t.mem 0x1000 16 ==
          [0x00, 0x00, 0x00, 0x00, 0x01, 0x00, 0x00, 0x00] ++
          [0xFF, 0xFE, 0xFF, 0x00, 0x01, 0x00, 0x81, 0x80]) = true := by decide

/-- V79; V82: header overflow before capacity. -/
theorem test_embed_errors :
    answers (exec .embed (srcBuf 0x100 1 0x1000 39 (put 0x100 [0x41] base))) (fun t =>
      errors t == [0x102, 40, 39] && t.mem == [(0x100, 0x41)]) = true ∧
    answers (exec .embed (srcBuf 0x100 32 0x1000 10 (withArg 0 0))) (fun t =>
      errors t == [0x802, 0, 0]) = true := by decide

/-- V90: 12 bits give one byte and 4 dropped bits; the destination's second byte stays. -/
theorem test_extract :
    answers (exec .extract (bufDst 0x1000 44 0x2000 16 (put 0x2001 [0xEE]
      (put 0x1000 ((lengthHeaderBits 12 32).map bitCell ++ [0, 1, 0, 1, 0, 1, 0, 1, 1, 1, 1, 1]) base))))
      (fun t => outcome t == [0x2, 1, 12, 4] && Memory.readAll t.mem 0x2000 2 == [0x55, 0xEE]) = true := by
  decide

/-- V91: a required length of 2^32 + 31; V94. -/
theorem test_extract_errors :
    answers (exec .extract (bufDst 0x1000 100 0x2000 16 (put 0x1000 (List.replicate 100 1) base)))
      (fun t => errors t == [0x202, 2 ^ 32 + 31, 100]) = true ∧
    answers (exec .extract (bufDst 0x1000 48 0x2000 1
      (put 0x1000 ((lengthHeaderBits 16 32).map bitCell) base))) (fun t =>
        errors t == [0x902, 2, 1]) = true := by decide

/-! ## The host and the step -/

/-- V96 and V97: an illegal word fails, before any range check. -/
theorem test_illegal_word :
    answers (step (pending 0x00000109 0 base)) (fun t =>
      errors t == [0x302, 0, 0] && t.cmd == 0x109) = true ∧
    answers (step (pending 0x00000100 0 (srcDst 0xFFFF 0x100 0 0 base))) (fun t =>
      errors t == [0x302, 0, 0]) = true := by decide

/-- V98: `CTRL` takes only bit 0. -/
theorem test_ctrl_write :
    answers (step (hostDoes [.regWrite 32 0x00 0xFFFFFFFF] base)) (fun t => t.ctrl == 1) = true ∧
    answers (step (hostDoes [.regWrite 32 0x00 0xFFFFFFFE] base)) (fun t => t.ctrl == 0) = true := by
  decide

/-- V99: a write to `RES0` is ignored. -/
theorem test_read_only_write :
    answers (step (hostDoes [.regWrite 32 0x28 5] base)) (fun t => t.res0 == 0) = true := by
  decide

/-- V100, in its parts: a busy write is dropped with WBUSY, which the completion keeps and the next accept
clears. -/
theorem test_wbusy :
    answers (step (hostDoes [.regWrite 32 0x0C 0x99] (pending 1 1 (withArg 1 0x41)))) (fun t =>
      t.status == 5 && t.arg == 0x41) = true ∧
    answers (step { pending 1 0 (srcDst 0 0 0x200 8 (withArg 1 0x41)) with status := 5 }) (fun t =>
      t.status == 6) = true ∧
    answers (step (hostDoes [.regWrite 32 0x04 1] { base with status := 6 })) (fun t =>
      t.status == 1) = true := by decide

/-- V102 to V104: the two marks, and an access outside every owned region. -/
theorem test_marks :
    answers (step (hostDoes [.regWrite 8 0x01 0] base)) (fun t => t.fault == some .hostAccess) = true ∧
    answers (step (hostDoes [.memWrite 0x1010 0x55] (pending 9 1 (srcBuf 0x100 1 0x1000 200 base))))
      (fun t => t.fault == some .hostRace) = true ∧
    answers (step (hostDoes [.memWrite 0x3000 0x55] (pending 9 1 (srcBuf 0x100 1 0x1000 200 base))))
      (fun t => t.fault == none && Memory.read t.mem 0x3000 == 0x55) = true := by decide

/-- V101: reset leaves memory and clears `STATUS`. -/
theorem test_reset :
    answers (step (hostDoes [.assertReset] { put 0x100 [0x41] base with ctrl := 0, status := 0x402 }))
      (fun t => t.ctrl == 1 && t.status == 0 && t.mem == [(0x100, 0x41)]) = true := by decide

/-- The encoding that P1 lists for the program of V1. -/
theorem test_program_encoding :
    hostProgram [.memw 0x100 [0x41], .setsrc 0x100 1, .setbuf 0x1000 200, .cmd .embed, .wait,
      .setdst 0x2000 16, .cmd .extract, .wait] =
    [.memWrite 0x100 0x41, .regWrite 32 0x10 0x00000100, .regWrite 32 0x14 0x00000001,
     .regWrite 32 0x18 0x00001000, .regWrite 32 0x1C 0x000000C8, .regWrite 32 0x04 0x00000009,
     .waitIdle, .regWrite 32 0x20 0x00002000, .regWrite 32 0x24 0x00000010,
     .regWrite 32 0x04 0x0000000A, .waitIdle] := by decide

/-- P5: the write after `CMD` comes before the core step, or after it, as the wait decides. -/
theorem test_both_orders :
    after 2 (hostDoes [.regWrite 32 0x0C 0xFF] (pending 1 0 (srcDst 0 0 0x200 8 (withArg 1 0x41))))
      (fun t => t.arg == 0xFF && t.status == 2) = true ∧
    after 2 (hostDoes [.regWrite 32 0x0C 0xFF] (pending 1 1 (srcDst 0 0 0x200 8 (withArg 1 0x41))))
      (fun t => t.arg == 0x41 && t.status == 6) = true := by decide

/-- The next step runs the command placed, here with no operand set: E_DST_SMALL (R130). -/
theorem test_fetch_word :
    answers (step (State.reset.withFetchWord 32 1)) (fun t => t.status == 0x902) = true ∧
    decodeTableWord 32 9 = some .embed ∧ decodeTableWord 32 0x109 = none := by decide

/-! ## Witnesses: encoding and the step -/

theorem test_witness_EncodeAndDecodeInvert :
    decode 0x00000001 = .ok .bytetobits ∧ decode 0x0000000A = .ok .extract := ⟨rfl, rfl⟩

theorem test_witness_PseudoInstructionsExpand :
    HostTurn (hostDoes [.waitIdle] (pending 9 1 base)) .waitIdle [] ∧
    HostTurn (hostDoes [.waitIdle] base) .waitIdle [] := by
  unfold HostTurn
  decide

theorem test_witness_StepRunsDecodedCommand :
    CoreTurn (pending 9 3 base) ∧ decode (pending 9 3 base).cmd = .ok .embed ∧
    CoreTurn (hostDoes [.waitIdle] (pending 9 0 base)) := by
  refine ⟨?_, rfl, ?_⟩ <;> · unfold CoreTurn; decide

theorem test_witness_IllegalWordOnlyFails :
    HostTurn (hostDoes [.regWrite 32 0x04 0x109] base) (.regWrite 32 0x04 0x109) [] ∧
    base.busy = false ∧ (∀ i, decode 0x109 ≠ .ok i) ∧
    (∀ w ∈ [0x00000100, 0x00000000, 0x0000000B, 0x000000FF],
      CoreTurn (pending (BitVec.ofNat 32 w) 0 base)) ∧
    (0x00000100 / 2 ^ 8 ≠ 0 ∧ 0x00000000 % 2 ^ 8 = 0 ∧ 0x0B ≤ 0x0000000B % 2 ^ 8 ∧
      0x0B ≤ 0x000000FF % 2 ^ 8) := by
  refine ⟨by unfold HostTurn; decide, by decide, ?_, by unfold CoreTurn; decide, by decide⟩
  intro i h
  rw [show decode 0x109 = .error .reservedBitsSet from rfl] at h
  cases h

theorem test_witness_HeaderWidthSelected :
    (withArg 1 0).ctrl.toNat % 2 = 1 ∧ (withArg 0 0).ctrl.toNat % 2 = 0 := by decide

/-! ## Witnesses: the commands, one state per branch -/

/-- Out of range by one; argument 256; capacity 7; and all well with argument 255 and a destination that
ends at MEM_SIZE. -/
theorem test_witness_BytetobitsMeetsItsRule :
    (∃ s : State, Memory.wf s.mem ∧ OutOfRange s s.dstAddr s.dstLen ∧
      s = srcDst 0 0 0xFFF9 8 (withArg 1 0)) ∧
    (∃ s : State, Memory.wf s.mem ∧ ¬ OutOfRange s s.dstAddr s.dstLen ∧ 255 < s.arg.toNat ∧
      s = srcDst 0 0 0xFFF8 8 (withArg 1 256)) ∧
    (∃ s : State, Memory.wf s.mem ∧ ¬ OutOfRange s s.dstAddr s.dstLen ∧ ¬ 255 < s.arg.toNat ∧
      s.dstLen.toNat < 8 ∧ s = srcDst 0 0 0xFFF8 7 (withArg 1 255)) ∧
    (∃ s : State, Memory.wf s.mem ∧ ¬ OutOfRange s s.dstAddr s.dstLen ∧ ¬ 255 < s.arg.toNat ∧
      ¬ s.dstLen.toNat < 8 ∧ s = srcDst 0 0 0xFFF8 8 (withArg 1 255)) := by
  refine ⟨⟨_, ?_, ?_, rfl⟩, ⟨_, ?_, ?_, ?_, rfl⟩, ⟨_, ?_, ?_, ?_, ?_, rfl⟩, ⟨_, ?_, ?_, ?_, ?_, rfl⟩⟩ <;>
    decide

/-- The branches of BITSTOBYTE: out of range, length 7 and 9, a bad element, and all well. -/
theorem test_witness_BitstobyteMeetsItsRule :
    (let s := srcDst 0xFFF9 8 0 0 base; OutOfRange s s.srcAddr s.srcLen) ∧
    (let s := srcDst 0xFFF9 7 0 0 base; ¬ OutOfRange s s.srcAddr s.srcLen ∧ s.srcLen.toNat ≠ 8) ∧
    (let s := srcDst 0xFFF8 8 0 0 (put 0xFFFF [2] base);
      ¬ OutOfRange s s.srcAddr s.srcLen ∧ s.srcLen.toNat = 8 ∧
      ¬ ∀ k < 8, byteAt s (s.srcAddr.toNat + k) ≤ 1) ∧
    (let s := srcDst 0xFFF8 8 0 0 (put 0xFFFF [1] base);
      ¬ OutOfRange s s.srcAddr s.srcLen ∧ s.srcLen.toNat = 8 ∧
      ∀ k < 8, byteAt s (s.srcAddr.toNat + k) ≤ 1) := by decide

/-- The branches of BYTESTOBITS: out of range, overlapping by one byte, one byte too small, all well. -/
theorem test_witness_BytestobitsMeetsItsRule :
    (let s := srcDst 0xFFFF 2 0x200 16 base; Memory.wf s.mem ∧ OutOfRange s s.srcAddr s.srcLen) ∧
    (let s := srcDst 0x100 2 0x101 16 base;
      Memory.wf s.mem ∧ ¬ OutOfRange s s.srcAddr s.srcLen ∧ ¬ OutOfRange s s.dstAddr s.dstLen ∧
      Overlap s.srcAddr s.srcLen s.dstAddr s.dstLen) ∧
    (let s := srcDst 0x100 2 0x102 15 base;
      Memory.wf s.mem ∧ ¬ OutOfRange s s.srcAddr s.srcLen ∧ ¬ OutOfRange s s.dstAddr s.dstLen ∧
      ¬ Overlap s.srcAddr s.srcLen s.dstAddr s.dstLen ∧ s.dstLen.toNat < 8 * s.srcLen.toNat) ∧
    (let s := srcDst 0x100 2 0x102 16 (put 0x100 [0x12, 0x34] base);
      Memory.wf s.mem ∧ ¬ OutOfRange s s.srcAddr s.srcLen ∧ ¬ OutOfRange s s.dstAddr s.dstLen ∧
      ¬ Overlap s.srcAddr s.srcLen s.dstAddr s.dstLen ∧ ¬ s.dstLen.toNat < 8 * s.srcLen.toNat) := by
  decide

/-- The branches of BITSTOBYTES: out of range, overlapping, too small, a bad element, all well. -/
theorem test_witness_BitstobytesMeetsItsRule :
    (let s := srcDst 0x200 9 0xFFFF 2 base; Memory.wf s.mem ∧ OutOfRange s s.dstAddr s.dstLen) ∧
    (let s := srcDst 0x200 9 0x208 1 base;
      Memory.wf s.mem ∧ ¬ OutOfRange s s.srcAddr s.srcLen ∧ ¬ OutOfRange s s.dstAddr s.dstLen ∧
      Overlap s.srcAddr s.srcLen s.dstAddr s.dstLen) ∧
    (let s := srcDst 0x200 9 0x209 0 base;
      Memory.wf s.mem ∧ ¬ OutOfRange s s.srcAddr s.srcLen ∧ ¬ OutOfRange s s.dstAddr s.dstLen ∧
      ¬ Overlap s.srcAddr s.srcLen s.dstAddr s.dstLen ∧ s.dstLen.toNat < s.srcLen.toNat / 8) ∧
    (let s := srcDst 0x200 9 0x209 1 (put 0x208 [2] base);
      Memory.wf s.mem ∧ ¬ OutOfRange s s.srcAddr s.srcLen ∧ ¬ OutOfRange s s.dstAddr s.dstLen ∧
      ¬ Overlap s.srcAddr s.srcLen s.dstAddr s.dstLen ∧ ¬ s.dstLen.toNat < s.srcLen.toNat / 8 ∧
      ¬ ∀ k < s.srcLen.toNat, byteAt s (s.srcAddr.toNat + k) ≤ 1) ∧
    (let s := srcDst 0x200 9 0x209 1 (put 0x208 [1] base);
      Memory.wf s.mem ∧ ¬ OutOfRange s s.srcAddr s.srcLen ∧ ¬ OutOfRange s s.dstAddr s.dstLen ∧
      ¬ Overlap s.srcAddr s.srcLen s.dstAddr s.dstLen ∧ ¬ s.dstLen.toNat < s.srcLen.toNat / 8 ∧
      ∀ k < s.srcLen.toNat, byteAt s (s.srcAddr.toNat + k) ≤ 1) := by decide

/-- The branches of EXTRACTLSB. -/
theorem test_witness_ExtractlsbMeetsItsRule :
    (let s := srcDst 0x100 6 0xFFFB 6 base; Memory.wf s.mem ∧ OutOfRange s s.dstAddr s.dstLen) ∧
    (let s := srcDst 0x100 6 0x105 6 base;
      Memory.wf s.mem ∧ ¬ OutOfRange s s.srcAddr s.srcLen ∧ ¬ OutOfRange s s.dstAddr s.dstLen ∧
      Overlap s.srcAddr s.srcLen s.dstAddr s.dstLen) ∧
    (let s := srcDst 0x100 6 0x106 5 base;
      Memory.wf s.mem ∧ ¬ OutOfRange s s.srcAddr s.srcLen ∧ ¬ OutOfRange s s.dstAddr s.dstLen ∧
      ¬ Overlap s.srcAddr s.srcLen s.dstAddr s.dstLen ∧ s.dstLen.toNat < s.srcLen.toNat) ∧
    (let s := srcDst 0x100 6 0xFFFA 6 (put 0x100 [0xFF] base);
      Memory.wf s.mem ∧ ¬ OutOfRange s s.srcAddr s.srcLen ∧ ¬ OutOfRange s s.dstAddr s.dstLen ∧
      ¬ Overlap s.srcAddr s.srcLen s.dstAddr s.dstLen ∧ ¬ s.dstLen.toNat < s.srcLen.toNat) := by
  decide

/-- The branches of LENHDRBITS, with the argument at 2^8 and one below. -/
theorem test_witness_LenhdrbitsMeetsItsRule :
    (let s := srcDst 0 0 0xFFF9 8 (withArg 0 0); Memory.wf s.mem ∧ OutOfRange s s.dstAddr s.dstLen) ∧
    (let s := srcDst 0 0 0xFFF8 8 (withArg 0 256);
      Memory.wf s.mem ∧ ¬ OutOfRange s s.dstAddr s.dstLen ∧ 2 ^ s.headerWidth ≤ s.arg.toNat) ∧
    (let s := srcDst 0 0 0x400 31 (withArg 1 256);
      Memory.wf s.mem ∧ ¬ OutOfRange s s.dstAddr s.dstLen ∧ ¬ 2 ^ s.headerWidth ≤ s.arg.toNat ∧
      s.dstLen.toNat < s.headerWidth) ∧
    (let s := srcDst 0 0 0xFFF8 8 (withArg 0 255);
      Memory.wf s.mem ∧ ¬ OutOfRange s s.dstAddr s.dstLen ∧ ¬ 2 ^ s.headerWidth ≤ s.arg.toNat ∧
      ¬ s.dstLen.toNat < s.headerWidth) := by decide

/-- Bits to append to and a tail of 7; values at the top of both widths. -/
theorem test_witness_BitFunctionLaws :
    (List.replicate 8 true).length % 8 = 0 ∧ (List.replicate 7 true).length < 8 ∧
    255 < 2 ^ 8 ∧ 0xFFFFFFFF < 2 ^ 32 := by decide

theorem test_witness_BytesToBitsElements :
    1 < ([0x12, 0x34] : List Byte).length ∧ (bytesToBits [0x12, 0x34])[8 * 1 + 7]? = some false := by decide

theorem test_witness_HeaderValueIsBigEndian : 255 < 2 ^ (List.replicate 8 true).length := by decide

theorem test_witness_FrameLayout :
    (8 = 8 ∨ 8 = 32) ∧ 7 < 8 ∧ 0 < ([0x41] : List Byte).length ∧
    (buildFrame [0x41] 8)[8 + 8 * 0 + 7]? = some true := by decide

/-- `R162`'s bounds and the lengths just past them; the checks pass in all four states. -/
theorem test_witness_HeaderRangeBounds :
    (∀ n ∈ [31, 32], let s := srcDst 0x100 (BitVec.ofNat 32 n) 0x400 300 (withArg 0 0)
      commonChecks .buildframe s = none ∧ s.ctrl.toNat % 2 = 0) ∧
    (∀ n ∈ [0x1FFFFFFF, 0x20000000],
      let s := srcBuf 0 (BitVec.ofNat 32 n) 0x20000000 0xE0000000 { withArg 1 0 with memSize := 2 ^ 32 }
      commonChecks .embed s = none ∧ s.ctrl.toNat % 2 = 1) ∧
    (∀ s, exec .buildframe s = .next (s.runCommand .buildframe (bodyBuildframe s))) ∧
    (∀ s, exec .embed s = .next (s.runCommand .embed (bodyEmbed s))) := by
  refine ⟨by decide, by decide, fun _ => rfl, fun _ => rfl⟩

/-- The branches of BUILDFRAME: out of range, overlapping, 32 payload bytes with w = 8, capacity 15, all
well. -/
theorem test_witness_BuildframeMeetsItsRule :
    (let s := srcDst 0x100 1 0xFFF1 16 (withArg 0 0);
      Memory.wf s.mem ∧ OutOfRange s s.dstAddr s.dstLen) ∧
    (let s := srcDst 0x100 1 0x100 16 (withArg 0 0);
      Memory.wf s.mem ∧ ¬ OutOfRange s s.srcAddr s.srcLen ∧ ¬ OutOfRange s s.dstAddr s.dstLen ∧
      Overlap s.srcAddr s.srcLen s.dstAddr s.dstLen) ∧
    (let s := srcDst 0x100 32 0x400 300 (withArg 0 0);
      Memory.wf s.mem ∧ ¬ OutOfRange s s.srcAddr s.srcLen ∧ ¬ OutOfRange s s.dstAddr s.dstLen ∧
      ¬ Overlap s.srcAddr s.srcLen s.dstAddr s.dstLen ∧ 2 ^ s.headerWidth ≤ 8 * s.srcLen.toNat) ∧
    (let s := srcDst 0x100 1 0x101 15 (withArg 0 0);
      Memory.wf s.mem ∧ ¬ OutOfRange s s.srcAddr s.srcLen ∧ ¬ OutOfRange s s.dstAddr s.dstLen ∧
      ¬ Overlap s.srcAddr s.srcLen s.dstAddr s.dstLen ∧ ¬ 2 ^ s.headerWidth ≤ 8 * s.srcLen.toNat ∧
      s.dstLen.toNat < s.headerWidth + 8 * s.srcLen.toNat) ∧
    (let s := srcDst 0x100 1 0xFFF0 16 (withArg 0 0);
      Memory.wf s.mem ∧ ¬ OutOfRange s s.srcAddr s.srcLen ∧ ¬ OutOfRange s s.dstAddr s.dstLen ∧
      ¬ Overlap s.srcAddr s.srcLen s.dstAddr s.dstLen ∧ ¬ 2 ^ s.headerWidth ≤ 8 * s.srcLen.toNat ∧
      ¬ s.dstLen.toNat < s.headerWidth + 8 * s.srcLen.toNat) := by decide

/-- The branches of PARSEHEADER: out of range, 7 bytes for an 8-bit header, exactly 8. -/
theorem test_witness_ParseheaderMeetsItsRule :
    (let s := srcBuf 0 0 0xFFF9 8 (withArg 0 0); OutOfRange s s.bufAddr s.bufLen) ∧
    (let s := srcBuf 0 0 0xFFF9 7 (withArg 0 0);
      ¬ OutOfRange s s.bufAddr s.bufLen ∧ s.bufLen.toNat < s.headerWidth) ∧
    (let s := srcBuf 0 0 0xFFF8 8 (withArg 0 0);
      ¬ OutOfRange s s.bufAddr s.bufLen ∧ ¬ s.bufLen.toNat < s.headerWidth) := by decide

/-- A carrier byte for each clause, and one beyond the frame. -/
theorem test_witness_EmbedBitsElements :
    let carrier : List Byte := [0xFE, 0xFF, 0xFF, 0x00, 0xAA]
    let frame : BitSeq := [true, false, true, false]
    frame.length ≤ carrier.length ∧
    (carrier[0]? = some 0xFE ∧ frame[0]? = some true ∧ (0xFE : Byte).toNat % 2 = 0) ∧
    (carrier[1]? = some 0xFF ∧ frame[1]? = some false ∧ (0xFF : Byte).toNat % 2 = 1) ∧
    (carrier[2]? = some 0xFF ∧ frame[2]? = some true) ∧
    (carrier[3]? = some 0x00 ∧ frame[3]? = some false ∧ (0x00 : Byte).toNat % 2 = 0) ∧
    (carrier[4]? = some 0xAA ∧ frame.length ≤ 4) := by decide

/-- The branches of EMBED: out of range, overlapping by one byte, 32 payload bytes with w = 8, capacity 15,
all well. -/
theorem test_witness_EmbedMeetsItsRule :
    (let s := srcBuf 0x100 1 0xFFF1 16 (withArg 0 0);
      Memory.wf s.mem ∧ OutOfRange s s.bufAddr s.bufLen) ∧
    (let s := srcBuf 0x100F 1 0x1000 16 (withArg 0 0);
      Memory.wf s.mem ∧ ¬ OutOfRange s s.srcAddr s.srcLen ∧ ¬ OutOfRange s s.bufAddr s.bufLen ∧
      Overlap s.srcAddr s.srcLen s.bufAddr s.bufLen) ∧
    (let s := srcBuf 0x100 32 0x1000 10 (withArg 0 0);
      Memory.wf s.mem ∧ ¬ OutOfRange s s.srcAddr s.srcLen ∧ ¬ OutOfRange s s.bufAddr s.bufLen ∧
      ¬ Overlap s.srcAddr s.srcLen s.bufAddr s.bufLen ∧ 2 ^ s.headerWidth ≤ 8 * s.srcLen.toNat) ∧
    (let s := srcBuf 0x100 1 0x1000 15 (withArg 0 0);
      Memory.wf s.mem ∧ ¬ OutOfRange s s.srcAddr s.srcLen ∧ ¬ OutOfRange s s.bufAddr s.bufLen ∧
      ¬ Overlap s.srcAddr s.srcLen s.bufAddr s.bufLen ∧ ¬ 2 ^ s.headerWidth ≤ 8 * s.srcLen.toNat ∧
      s.bufLen.toNat < s.headerWidth + 8 * s.srcLen.toNat) ∧
    (let s := srcBuf 0x1010 1 0x1000 16 (withArg 0 0);
      Memory.wf s.mem ∧ ¬ OutOfRange s s.srcAddr s.srcLen ∧ ¬ OutOfRange s s.bufAddr s.bufLen ∧
      ¬ Overlap s.srcAddr s.srcLen s.bufAddr s.bufLen ∧ ¬ 2 ^ s.headerWidth ≤ 8 * s.srcLen.toNat ∧
      ¬ s.bufLen.toNat < s.headerWidth + 8 * s.srcLen.toNat) := by decide

/-- V78 as a state: w = 8, payload C3, carrier of 18 bytes. -/
def embedState : State :=
  srcBuf 0x100 1 0x1000 18 (put 0x100 [0xC3] (put 0x1000
    [0x10, 0x11, 0x12, 0x13, 0x14, 0x15, 0x16, 0x17, 0x18, 0x19, 0x1A, 0x1B, 0x1C, 0x1D, 0x1E, 0x1F,
      0xAA, 0xAB] (withArg 0 0)))

/-- The state `embedState` ends in, and with the registers set for the extract of V78. -/
def embeddedState : State := embedState.runCommand .embed (bodyEmbed embedState)

def extractState : State := { embeddedState with dstAddr := 0x2000, dstLen := 4 }

theorem test_witness_EmbedPerturbsMinimally :
    Memory.wf embedState.mem ∧ exec .embed embedState = .next embeddedState ∧
    statusErr embeddedState.status = 0x00 ∧
    15 < embedState.headerWidth + 8 * embedState.srcLen.toNat ∧
    embedState.headerWidth + 8 * embedState.srcLen.toNat ≤ 16 ∧ 17 < embedState.bufLen.toNat := by
  refine ⟨by decide, rfl, ?_⟩
  decide

/-- V79: capacity 39, one short of the 40 required. -/
theorem test_witness_CapacityRejectionLeavesCarrier :
    let s := srcBuf 0x100 1 0x1000 39 base
    commonChecks .embed s = none ∧ s.bufLen.toNat < s.headerWidth + 8 * s.srcLen.toNat ∧
    8 * s.srcLen.toNat < 2 ^ s.headerWidth := by decide

/-- The first branches of EXTRACT: out of range, overlapping, a header cut short. -/
theorem test_witness_ExtractMeetsItsRule_checks :
    (let s := bufDst 0x1000 40 0xFFFF 2 base;
      Memory.wf s.mem ∧ OutOfRange s s.dstAddr s.dstLen) ∧
    (let s := bufDst 0x1000 40 0x1010 4 base;
      Memory.wf s.mem ∧ ¬ OutOfRange s s.bufAddr s.bufLen ∧ ¬ OutOfRange s s.dstAddr s.dstLen ∧
      Overlap s.bufAddr s.bufLen s.dstAddr s.dstLen) ∧
    (let s := bufDst 0x1000 31 0x2000 16 base;
      Memory.wf s.mem ∧ ¬ OutOfRange s s.bufAddr s.bufLen ∧ ¬ OutOfRange s s.dstAddr s.dstLen ∧
      ¬ Overlap s.bufAddr s.bufLen s.dstAddr s.dstLen ∧ s.bufLen.toNat < s.headerWidth) := by decide

/-- The other branches of EXTRACT: a payload cut short (V88), a destination too small (V94), all well. -/
theorem test_witness_ExtractMeetsItsRule :
    (let s := bufDst 0x1000 40 0x2000 16 (put 0x1000 ((lengthHeaderBits 9 32).map bitCell) base);
      Memory.wf s.mem ∧ ¬ OutOfRange s s.bufAddr s.bufLen ∧ ¬ OutOfRange s s.dstAddr s.dstLen ∧
      ¬ Overlap s.bufAddr s.bufLen s.dstAddr s.dstLen ∧ ¬ s.bufLen.toNat < s.headerWidth ∧
      s.bufLen.toNat < s.headerWidth + parityNumber s s.bufAddr.toNat s.headerWidth) ∧
    (let s := bufDst 0x1000 48 0x2000 1 (put 0x1000 ((lengthHeaderBits 16 32).map bitCell) base);
      Memory.wf s.mem ∧ ¬ OutOfRange s s.bufAddr s.bufLen ∧ ¬ OutOfRange s s.dstAddr s.dstLen ∧
      ¬ Overlap s.bufAddr s.bufLen s.dstAddr s.dstLen ∧ ¬ s.bufLen.toNat < s.headerWidth ∧
      ¬ s.bufLen.toNat < s.headerWidth + parityNumber s s.bufAddr.toNat s.headerWidth ∧
      s.dstLen.toNat < parityNumber s s.bufAddr.toNat s.headerWidth / 8) ∧
    (let s := bufDst 0x1000 44 0x2000 1 (put 0x1000 ((lengthHeaderBits 12 32).map bitCell) base);
      Memory.wf s.mem ∧ ¬ OutOfRange s s.bufAddr s.bufLen ∧ ¬ OutOfRange s s.dstAddr s.dstLen ∧
      ¬ Overlap s.bufAddr s.bufLen s.dstAddr s.dstLen ∧ ¬ s.bufLen.toNat < s.headerWidth ∧
      ¬ s.bufLen.toNat < s.headerWidth + parityNumber s s.bufAddr.toNat s.headerWidth ∧
      ¬ s.dstLen.toNat < parityNumber s s.bufAddr.toNat s.headerWidth / 8) := by decide

theorem test_witness_ExtractWritesExtractPayload :
    Memory.wf extractState.mem ∧
    exec .extract extractState = .next (extractState.runCommand .extract (bodyExtract extractState)) ∧
    statusErr (extractState.runCommand .extract (bodyExtract extractState)).status = 0x00 := by
  refine ⟨by decide, rfl, ?_⟩
  decide

/-- V78, both halves. -/
theorem test_witness_EmbedThenExtractRoundTrip :
    let s := embedState
    let t := embeddedState
    let u := extractState
    Memory.wf s.mem ∧ Memory.wf u.mem ∧ s.headerWidth + 8 * s.srcLen.toNat ≤ s.bufLen.toNat ∧
    8 * s.srcLen.toNat < 2 ^ s.headerWidth ∧
    ¬ OutOfRange s s.srcAddr s.srcLen ∧ ¬ OutOfRange s s.bufAddr s.bufLen ∧
    ¬ Overlap s.srcAddr s.srcLen s.bufAddr s.bufLen ∧ exec .embed s = .next t ∧
    u.headerWidth = s.headerWidth ∧ u.bufAddr = s.bufAddr ∧ u.bufLen = s.bufLen ∧
    u.memSize = s.memSize ∧
    (∀ k < s.bufLen.toNat, byteAt u (s.bufAddr.toNat + k) = byteAt t (s.bufAddr.toNat + k)) ∧
    s.srcLen.toNat ≤ u.dstLen.toNat ∧ ¬ OutOfRange u u.dstAddr u.dstLen ∧
    ¬ Overlap u.bufAddr u.bufLen u.dstAddr u.dstLen := by
  refine ⟨by decide, by decide, by decide, by decide, by decide,
    by decide, by decide, rfl, ?_⟩
  decide

/-! ## Witnesses: all commands -/

/-- A failure without lengths (E_RANGE) and one with them (E_DST_SMALL). -/
theorem test_witness_FailedCommandWritesNothing :
    (∀ i s, ∃ t, exec i s = .next t) ∧
    answers (exec .bytetobits (srcDst 0 0 0xFFFC 8 base)) (fun t =>
      statusErr t.status != 0x00 && decide (statusErr t.status ∉ [0x01, 0x02, 0x09])) = true ∧
    answers (exec .bytetobits (srcDst 0 0 0x200 7 base)) (fun t =>
      statusErr t.status != 0x00 && decide (statusErr t.status ∈ [0x01, 0x02, 0x09])) = true := by
  refine ⟨fun i s => by cases i <;> exact ⟨_, rfl⟩, by decide, by decide⟩

/-- A command of each clause. -/
theorem test_witness_CommandWritesOnlyItsRegion :
    Memory.wf embedState.mem ∧ (∀ i, ∃ t, exec i embedState = .next t) ∧
    Instr.extract ≠ .bitstobyte ∧ Instr.extract ≠ .parseheader ∧ Instr.extract ≠ .embed := by
  refine ⟨by decide, fun i => by cases i <;> exact ⟨_, rfl⟩, by decide, by decide, by decide⟩

/-- Two states that differ in one byte outside EXTRACTLSB's regions. -/
theorem test_witness_CommandReadsOnlyItsRegions :
    let s := srcDst 0x100 6 0x200 6 base
    let u := { s with mem := [(0x206, 0x01)] }
    Memory.wf s.mem ∧ Memory.wf u.mem ∧ u = { s with mem := u.mem } ∧
    (∀ r ∈ regionsOf .extractlsb s, ∀ a, r.holds a → byteAt u a = byteAt s a) ∧
    (∃ t, exec .extractlsb s = .next t) ∧ (∃ v, exec .extractlsb u = .next v) := by
  refine ⟨by decide, by decide, rfl, ?_, ⟨_, rfl⟩, ⟨_, rfl⟩⟩
  intro r hr a ha
  have hne : a ≠ 0x206 := by
    have h2 : ∀ r ∈ regionsOf .extractlsb (srcDst 0x100 6 0x200 6 base), r.addr + r.len ≤ 0x206 := by
      decide
    have h3 := h2 r hr
    have h4 := ha.2
    omega
  simp [byteAt, Memory.read, hne, srcDst, base, State.reset]

/-- A state for each of the four clauses; for BITSTOBYTES with 7 elements. -/
theorem test_witness_ZeroLengthOperands :
    (let s := srcDst 0x100 0 0x200 0 base;
      Memory.wf s.mem ∧ commonChecks .bytestobits s = none ∧ commonChecks .extractlsb s = none ∧
      s.srcLen = 0) ∧
    (let s := srcDst 0x100 7 0x200 0 (put 0x106 [1] base);
      Memory.wf s.mem ∧ commonChecks .bitstobytes s = none ∧ s.srcLen.toNat < 8 ∧
      ∀ k < s.srcLen.toNat, byteAt s (s.srcAddr.toNat + k) ≤ 1) ∧
    (let s := srcBuf 0x100 0 0x1000 8 (put 0x1000 [0xFF] (withArg 0 0));
      Memory.wf s.mem ∧ commonChecks .embed s = none ∧ s.srcLen = 0 ∧
      s.headerWidth ≤ s.bufLen.toNat) ∧
    (let s := bufDst 0x1000 8 0x2000 0 (put 0x1000 [0xFE] (withArg 0 0));
      Memory.wf s.mem ∧ commonChecks .extract s = none ∧ s.headerWidth ≤ s.bufLen.toNat ∧
      ∀ i < s.headerWidth, byteAt s (s.bufAddr.toNat + i) % 2 = 0) := by decide

/-! ## Witnesses: the host -/

/-- The first and last register, the first and last reserved offset. -/
theorem test_witness_RegisterReadReturnsValue :
    ∀ off ∈ ([0x00, 0x3C, 0x40, 0xFC] : List (BitVec 8)),
      HostTurn (hostDoes [.regRead 32 off] base) (.regRead 32 off) [] ∧ off.toNat % 4 = 0 := by
  unfold HostTurn
  decide

/-- A legal word and an illegal one; and a host write while the command is pending. -/
theorem test_witness_CommandAccept :
    (∀ n ∈ [0x00000009, 0x00000109], let h := HostAction.regWrite 32 0x04 (BitVec.ofNat 32 n)
      HostTurn (hostDoes [h] base) h [] ∧ (hostDoes [h] base).busy = false) ∧
    decode 0x00000009 = .ok .embed ∧ decode 0x00000109 = .error .reservedBitsSet ∧
    (let s := hostDoes [.regWrite 32 0x18 5] (pending 9 1 base);
      s.busy = true ∧ HostTurn s (.regWrite 32 0x18 5) [] ∧
      HostAction.regWrite 32 0x18 5 ≠ .assertReset) ∧
    ∃ t, step (hostDoes [.regWrite 32 0x18 5] (pending 9 1 base)) = .next t := by
  refine ⟨?_, rfl, rfl, ?_, ⟨_, rfl⟩⟩ <;> · unfold HostTurn; decide

/-- Every offset the statement names, the first and last of its ranges, idle and busy. -/
theorem test_witness_OtherRegisterWrites :
    (∀ off ∈ ([0x00, 0x0C, 0x10, 0x14, 0x18, 0x1C, 0x20, 0x24, 0x08, 0x28, 0xFC] : List (BitVec 8)),
      HostTurn (hostDoes [.regWrite 32 off 5] base) (.regWrite 32 off 5) [] ∧ off.toNat % 4 = 0 ∧
      (hostDoes [.regWrite 32 off 5] base).busy = false) ∧
    (∀ off ∈ ([0x04, 0x0C, 0xFC] : List (BitVec 8)),
      HostTurn (hostDoes [.regWrite 32 off 5] (pending 9 1 base)) (.regWrite 32 off 5) [] ∧
      off.toNat % 4 = 0 ∧ (hostDoes [.regWrite 32 off 5] (pending 9 1 base)).busy = true) := by
  unfold HostTurn
  decide

/-- A byte access, a halfword access, and a misaligned word access, idle and busy. -/
theorem test_witness_BadRegisterAccessFaults :
    HostTurn (hostDoes [.regRead 8 0x00] base) (.regRead 8 0x00) [] ∧ 8 ≠ 32 ∧
    HostTurn (hostDoes [.regWrite 16 0x04 1] base) (.regWrite 16 0x04 1) [] ∧ 16 ≠ 32 ∧
    HostTurn (hostDoes [.regWrite 32 0x06 1] (pending 9 1 base)) (.regWrite 32 0x06 1) [] ∧
    (0x06 : BitVec 8).toNat % 4 ≠ 0 := by
  unfold HostTurn
  decide

/-- Addresses below, at and past each end of an owned region, and at the end of memory. -/
theorem test_witness_HostMemoryAccess :
    let s := pending 9 1 (srcBuf 0x100 1 0x1000 200 base)
    (∀ a ∈ [0xFFF, 0x1000, 0x10C7, 0x10C8, 0xFFFF, 0x10000],
      HostTurn (hostDoes [.memRead a] s) (.memRead a) [] ∧
      HostTurn (hostDoes [.memWrite a 0x55] s) (.memWrite a 0x55) []) ∧
    Memory.wf s.mem ∧
    s.owned 0xFFF = false ∧ s.owned 0x1000 = true ∧ s.owned 0x10C7 = true ∧ s.owned 0x10C8 = false ∧
    s.owned 0xFFFF = false ∧ 0xFFFF < s.memSize ∧ s.memSize ≤ 0x10000 := by
  unfold HostTurn
  decide

theorem test_witness_RegistersFrozenWhileBusy :
    let s := hostDoes [.regWrite 32 0x0C 0x99] (pending 9 1 base)
    s.busy = true ∧ HostTurn s (.regWrite 32 0x0C 0x99) [] ∧
    HostAction.regWrite 32 0x0C 0x99 ≠ .assertReset ∧ ∃ t, step s = .next t := by
  refine ⟨by decide, by unfold HostTurn; decide, by decide, ⟨_, rfl⟩⟩

/-- WBUSY cleared by an accept, and by a reset. -/
theorem test_witness_WbusyIsSticky :
    statusWbusy (6 : Word) = true ∧
    answers (step (hostDoes [.regWrite 32 0x04 1] { base with status := 6 })) (fun t =>
      !statusWbusy t.status) = true ∧
    answers (step (hostDoes [.assertReset] { base with status := 6 })) (fun t =>
      !statusWbusy t.status) = true := by decide

/-- An error that records lengths, and a reset that clears them. -/
theorem test_witness_ErrorRecordPersists :
    answers (step (pending 1 0 (srcDst 0 0 0x200 7 base))) (fun t => t.errReq != base.errReq) = true ∧
    answers (step (hostDoes [.assertReset] { base with errReqLo := 8, errAvail := 7 })) (fun t =>
      t.errReq != 8 && t.errAvail != 7) = true := by decide

/-- A host that waits twice, and one whose core step is next. -/
theorem test_witness_WaitReachesCoreStep :
    ∀ n ∈ [0, 2], let s := hostDoes [.waitIdle] (pending 9 n base)
      s.busy = true ∧ s.fault = none ∧ s.hostQueue = [.waitIdle] := by decide

/-- A faulted busy block whose host reads on, and one that is reset. -/
theorem test_witness_FaultIsNeverCleared :
    let s := { pending 9 1 base with fault := some .hostRace }
    s.fault ≠ none ∧ s.busy = true ∧ (∃ t, step (hostDoes [.regRead 32 0x08] s) = .next t) ∧
    HostTurn (hostDoes [.assertReset] s) .assertReset [] := by
  refine ⟨by decide, by decide, ⟨_, rfl⟩, by unfold HostTurn; decide⟩

theorem test_witness_RestingBlock :
    base.hostQueue = [] ∧ base.busy = false ∧ base.fault = none ∧
    ({ base with fault := some .hostRace } : State).hostQueue = [] := by decide

/-! ## Witnesses: reset and the invariants -/

/-- An idle reset, and a busy one for a command of each clause. -/
theorem test_witness_HostResetStep :
    Memory.wf base.mem ∧ HostTurn (hostDoes [.assertReset] base) .assertReset [] ∧ base.busy = false ∧
    (∀ n ∈ [0x01, 0x0A, 0x09, 0x02, 0x08, 0x0B], let s := pending (BitVec.ofNat 32 n) 1 base
      HostTurn (hostDoes [.assertReset] s) .assertReset [] ∧ s.busy = true ∧ s.cmd.toNat = n) := by
  unfold HostTurn
  decide

/-- A launch memory with a byte that is listed and one that is not, read at both ends. -/
theorem test_witness_LaunchMemoryHoldsItsParameter :
    launchMemory 3 (fun a => if a = 1 then 0x00 else 0xEE) = [(0, 0xEE), (2, 0xEE)] ∧
    Memory.read (launchMemory 3 fun a => if a = 1 then 0x00 else 0xEE) 0 = 0xEE ∧
    Memory.read (launchMemory 3 fun a => if a = 1 then 0x00 else 0xEE) 1 = 0x00 ∧
    Memory.read (launchMemory 3 fun a => if a = 1 then 0x00 else 0xEE) 2 = 0xEE ∧ 2 < 3 := by decide

/-- V78's memory is in order, and its core step and a host write are steps. -/
theorem test_witness_StepKeepsMemoryOk :
    embedState.MemoryOk ∧ (∃ t, step (pending 9 0 embedState) = .next t) ∧
    (∃ t, step (hostDoes [.memWrite 0xFFFF 0x55] embedState) = .next t) := by
  refine ⟨⟨by decide, by decide, by decide⟩, ⟨_, rfl⟩, ⟨_, rfl⟩⟩

/-- A block that has failed with E_RANGE is in order, and so is one with a command pending. -/
theorem test_witness_StepKeepsRegistersOk :
    ({ base with status := 0x402 } : State).RegistersOk ∧ (pending 9 1 base).RegistersOk ∧
    (∃ t, step (pending 9 0 base) = .next t) := by
  refine ⟨?_, ?_, ⟨_, rfl⟩⟩ <;> constructor <;> decide

end Sys2Proof.Tests
end

/-! The registers over a step: what each kind of step can write, said once, and the four statements
about the register file that follow (O48, O40, O7, O45). -/

namespace Sys2Proof.Machine

open Sys2Proof

/-! ## The header width and the header value -/

/-- `CTRL.HDRW` as a number (R24). -/
theorem State.headerWidth_eq (s : State) :
    s.headerWidth = if s.ctrl.toNat % 2 = 1 then 32 else 8 := by
  simp [State.headerWidth, BitVec.getLsbD, Nat.testBit_zero]

theorem State.headerWidth_le (s : State) : s.headerWidth ≤ 32 := by
  rw [s.headerWidth_eq]
  split <;> omega

theorem State.two_pow_headerWidth_le (s : State) : 2 ^ s.headerWidth ≤ 2 ^ 32 :=
  Nat.pow_le_pow_right (by omega) s.headerWidth_le

theorem headerValue_lt (h : BitSeq) : headerValue h < 2 ^ h.length := by
  induction h with
  | nil => simp [headerValue]
  | cons b bs ih =>
    have hb : bitValue b * 2 ^ bs.length ≤ 1 * 2 ^ bs.length :=
      Nat.mul_le_mul_right _ (bitValue_le b)
    rw [headerValue, List.length_cons, Nat.pow_succ]
    omega

/-- The carrier's header is a `w`-bit number (R160, R165). -/
theorem State.bufHeader_lt (s : State) : s.bufHeader < 2 ^ s.headerWidth := by
  simpa [State.bufHeader] using
    headerValue_lt (extractLsb (Memory.readAll s.mem s.bufAddr.toNat s.headerWidth))

/-! ## The required lengths a command records -/

/-- The required length an error records, if it records one, is at most the length of the longest
payload's frame with a 32-bit header (R40). -/
def CmdError.ReqBounded (e : CmdError) : Prop :=
  ∀ req avail, errorLengths e = some (req, avail) → req ≤ 32 + 8 * (2 ^ 32 - 1)

theorem CmdError.ReqBounded.of_none {e : CmdError} (h : errorLengths e = none) : e.ReqBounded := by
  simp [CmdError.ReqBounded, h]

/-- If the completion is an error, its required length is within the bound. -/
def Completion.ReqBounded (c : Completion) : Prop :=
  ∀ e, c = .raise e → e.ReqBounded

theorem Completion.ReqBounded.finish {m : Memory} {r0 r1 r2 : Nat} :
    (Completion.finish m r0 r1 r2).ReqBounded := by
  simp [Completion.ReqBounded]

/-- An error that records no length. -/
theorem Completion.ReqBounded.raise {e : CmdError} (h : errorLengths e = none) :
    (Completion.raise e).ReqBounded := by
  rintro _ ⟨⟩
  exact .of_none h

/-- An error that records its lengths. -/
theorem Completion.ReqBounded.record {e : CmdError} {req : Nat} {avail : Word}
    (hr : req ≤ 32 + 8 * (2 ^ 32 - 1)) (h : errorLengths e = some (req, avail)) :
    (Completion.raise e).ReqBounded := by
  rintro _ ⟨⟩ req' avail' h'
  cases h.symm.trans h'
  exact hr

theorem Completion.ReqBounded.ite {p : Prop} [Decidable p] {c d : Completion} (hc : c.ReqBounded)
    (hd : d.ReqBounded) : (if p then c else d).ReqBounded := by
  split <;> assumption

/-- The longest frame (R40, R108). -/
theorem State.frameLength_le (s : State) : s.frameLength ≤ 32 + 8 * (2 ^ 32 - 1) := by
  have hw := s.headerWidth_le
  have hn := s.srcLen.isLt
  rw [State.frameLength]
  omega

/-- The body of each command (R130 to R201). -/
def commandBody (i : Instr) (s : State) : Completion :=
  match i with
  | .bytetobits => bodyBytetobits s
  | .bitstobyte => bodyBitstobyte s
  | .bytestobits => bodyBytestobits s
  | .bitstobytes => bodyBitstobytes s
  | .extractlsb => bodyExtractlsb s
  | .lenhdrbits => bodyLenhdrbits s
  | .buildframe => bodyBuildframe s
  | .parseheader => bodyParseheader s
  | .embed => bodyEmbed s
  | .extract => bodyExtract s

/-- `exec` of R104 for every command: the common checks, then the command's body. -/
theorem exec_eq (i : Instr) (s : State) :
    exec i s = .next (s.runCommand i (commandBody i s)) := by
  cases i <;> rfl

/-- Every length a command requires fits: SRC_LEN times at most 8, a header width, a frame, or the
header width plus a header value (R40). -/
theorem commandBody_reqBounded (i : Instr) (s : State) : (commandBody i s).ReqBounded := by
  have hn : s.srcLen.toNat < 2 ^ 32 := s.srcLen.isLt
  have hw : s.headerWidth ≤ 32 := s.headerWidth_le
  have hL : s.bufHeader < 2 ^ 32 := s.bufHeader_lt.trans_le s.two_pow_headerWidth_le
  have hF := s.frameLength_le
  cases i with
  | bytetobits => exact .ite (.raise rfl) (.ite (.record (by omega) rfl) .finish)
  | bitstobyte => exact .ite (.raise rfl) (.ite (.raise rfl) .finish)
  | bytestobits => exact .ite (.record (by omega) rfl) .finish
  | bitstobytes => exact .ite (.record (by omega) rfl) (.ite (.raise rfl) .finish)
  | extractlsb => exact .ite (.record (by omega) rfl) .finish
  | lenhdrbits => exact .ite (.raise rfl) (.ite (.record (by omega) rfl) .finish)
  | buildframe => exact .ite (.raise rfl) (.ite (.record hF rfl) .finish)
  | parseheader => exact .ite (.record (by omega) rfl) .finish
  | embed => exact .ite (.raise rfl) (.ite (.record hF rfl) .finish)
  | extract =>
    exact .ite (.record (by omega) rfl)
      (.ite (.record (by omega) rfl) (.ite (.record (by omega) rfl) .finish))

/-! ## What one step can do to the registers -/

/-- The common checks raise errors that record no length (R105, R107). -/
theorem commonChecks_errorLengths {i : Instr} {s : State} {e : CmdError}
    (h : commonChecks i s = some e) : errorLengths e = none := by
  unfold commonChecks at h
  split_ifs at h <;> cases h <;> rfl

/-- A core step raises an error within the bound, or finishes (R104). -/
theorem coreStep_cases_reqBounded {s t : State} (h : coreStep s = .next t) :
    (∃ e : CmdError, e.ReqBounded ∧ t = s.raise e) ∨ ∃ m r0 r1 r2, t = s.finish m r0 r1 r2 := by
  rcases coreStep_cases h with rfl | ⟨i, -, hx⟩
  · exact .inl ⟨_, .of_none rfl, rfl⟩
  rw [exec_eq, Host.Outcome.next.injEq] at hx
  cases hc : commonChecks i s with
  | some e =>
    have hb : e.ReqBounded := .of_none (commonChecks_errorLengths hc)
    exact .inl ⟨e, hb, by rw [← hx, State.runCommand_some _ hc]⟩
  | none =>
    rw [State.runCommand_none _ hc] at hx
    cases hbody : commandBody i s with
    | finish m r0 r1 r2 => exact .inr ⟨m, r0, r1, r2, by rw [← hx, hbody, State.complete]⟩
    | raise e =>
      have hb : e.ReqBounded := commandBody_reqBounded i s e hbody
      exact .inl ⟨e, hb, by rw [← hx, hbody, State.complete]⟩

/-- A register reads the same whatever the fields that are no register hold. -/
theorem State.readReg_eq_of_nonregister {s t : State} {m : Memory} {n : Nat} {f : Option FaultMark}
    {q : List HostAction} {k c : Nat} {d : Word}
    (h : t = { s with mem := m, memSize := n, fault := f, hostQueue := q, coreWait := k, draws := c,
                      readData := d })
    (r : RegName) : t.readReg r = s.readReg r := by
  subst h
  cases r <;> rfl

@[simp] theorem State.readReg_takeAction (rest : List HostAction) (s : State) (r : RegName) :
    (s.takeAction rest).readReg r = s.readReg r :=
  State.readReg_eq_of_nonregister rfl r

/-- Only a reset and an aligned 32-bit register write can change a register from the host's side
(R100 to R103, R250). -/
theorem hostAct_register_cases {a : HostAction} {s t : State} (h : hostAct a s = .next t) :
    (∃ off v, a = .regWrite 32 off v ∧ t = s.writeOffset off v) ∨
    (a = .assertReset ∧ ∃ u : State, t = u.resetRegs) ∨
    ∀ r, t.readReg r = s.readReg r := by
  cases a with
  | regRead bits off =>
    simp only [hostAct, hostRegRead] at h
    split at h <;> injection h with h <;> exact .inr (.inr (State.readReg_eq_of_nonregister h.symm))
  | regWrite bits off v =>
    simp only [hostAct, hostRegWrite] at h
    split at h <;> injection h with h
    · have hb : bits = 32 := by simp_all [regAccessWellFormed, accessWidthOk]
      exact .inl ⟨off, v, by rw [hb], h.symm⟩
    · exact .inr (.inr (State.readReg_eq_of_nonregister h.symm))
  | memRead b =>
    simp only [hostAct, hostMemRead] at h
    split_ifs at h <;> injection h with h <;>
      exact .inr (.inr (State.readReg_eq_of_nonregister h.symm))
  | memWrite b v =>
    simp only [hostAct, hostMemWrite] at h
    split_ifs at h <;> injection h with h <;>
      exact .inr (.inr (State.readReg_eq_of_nonregister h.symm))
  | assertReset =>
    simp only [hostAct, hostReset, Host.Outcome.next.injEq] at h
    refine .inr (.inl ⟨rfl, if s.busy then s.scramble else s, ?_⟩)
    rw [← h]
    split <;> rfl
  | waitIdle =>
    simp only [hostAct, hostWait] at h
    split at h <;> injection h with h <;> exact .inr (.inr (State.readReg_eq_of_nonregister h.symm))

/-- The inversion of `step` for the registers: a completion, a write, a reset, or no change. -/
theorem step_register_cases {s t : State} (h : step s = .next t) :
    (CoreTurn s ∧ ∃ e : CmdError, e.ReqBounded ∧ t = s.raise e) ∨
    (CoreTurn s ∧ ∃ m r0 r1 r2, t = s.finish m r0 r1 r2) ∨
    (∃ rest off v, HostTurn s (.regWrite 32 off v) rest ∧ t = (s.takeAction rest).writeOffset off v) ∨
    (∃ rest, HostTurn s .assertReset rest ∧ ∃ u : State, t = u.resetRegs) ∨
    ∀ r, t.readReg r = s.readReg r := by
  rcases step_cases s with ⟨hc, hs⟩ | ⟨a, rest, hh, hs⟩ | ⟨-, -, hs⟩ <;> rw [h] at hs
  · rcases coreStep_cases_reqBounded hs.symm with he | hf
    · exact .inl ⟨hc, he⟩
    · exact .inr (.inl ⟨hc, hf⟩)
  · rcases hostAct_register_cases hs.symm with ⟨off, v, rfl, ht⟩ | ⟨rfl, ht⟩ | hk
    · exact .inr (.inr (.inl ⟨rest, off, v, hh, ht⟩))
    · exact .inr (.inr (.inr (.inl ⟨rest, hh, ht⟩)))
    · exact .inr (.inr (.inr (.inr fun r => (hk r).trans (State.readReg_takeAction rest s r))))
  · unfold restStep at hs
    split at hs <;> cases hs
    exact .inr (.inr (.inr (.inr fun _ => rfl)))

theorem regOffset_of_regAt {off : BitVec 8} {r : RegName} (h : regAt off = some r) :
    off = regOffset r := by
  unfold regAt at h
  split at h <;> cases h <;> exact BitVec.eq_of_toNat_eq ‹_›

theorem and_one_shiftRight_one (v : Word) : (v &&& 1) >>> 1 = 0 := by
  ext i hi
  simp

/-- What an aligned register write does to `CTRL` and `STATUS` (R23, R102, R103): dropped with
WBUSY set, an accept, or neither. -/
theorem State.writeOffset_cases (off : BitVec 8) (v : Word) (s : State) :
    (s.busy = true ∧ (s.writeOffset off v).ctrl = s.ctrl ∧
      (s.writeOffset off v).status = setStatusWbusy true s.status) ∨
    (s.busy = false ∧ off = 0x04 ∧ (s.writeOffset off v).ctrl = s.ctrl ∧
      (s.writeOffset off v).status = acceptStatus s.status) ∨
    (((s.writeOffset off v).ctrl = s.ctrl ∨ (s.writeOffset off v).ctrl = v &&& 1) ∧
      (s.writeOffset off v).status = s.status) := by
  unfold State.writeOffset
  split
  case isTrue hb => exact .inl ⟨hb, rfl, rfl⟩
  case isFalse hb =>
    right
    split
    · next r hr =>
      cases r with
      | cmd => exact .inl ⟨by simpa using hb, regOffset_of_regAt hr, rfl, rfl⟩
      | _ => exact .inr (by simp [State.storeReg])
    · exact .inr ⟨.inl rfl, rfl⟩

theorem State.writeOffset_errReq (off : BitVec 8) (v : Word) (s : State) :
    (s.writeOffset off v).errReq = s.errReq := by
  obtain ⟨-, -, -, -, -, -, -, -, hlo, hhi, -⟩ := s.writeOffset_frame off v
  rw [State.errReq, hlo, hhi, State.errReq]

/-! ## The invariant of the control, status and error registers -/

/-- What `State.RegistersOk` says of the word in `STATUS`. -/
structure StatusOk (w : Word) : Prop where
  reserved : w &&& statusReservedMask = 0
  busyNotDone : statusBusy w = true → statusDone w = false
  errOnlyDone : statusErr w ≠ 0x00 → statusDone w = true
  errAssigned : (statusErr w).toNat ≤ 0x0A

theorem State.registersOk_iff {s : State} :
    s.RegistersOk ↔ s.ctrl >>> 1 = 0 ∧ StatusOk s.status ∧ s.errReq ≤ 32 + 8 * (2 ^ 32 - 1) :=
  ⟨fun ⟨hc, hr, hb, he, ha, hq⟩ => ⟨hc, ⟨hr, hb, he, ha⟩, hq⟩,
    fun ⟨hc, ⟨hr, hb, he, ha⟩, hq⟩ => ⟨hc, hr, hb, he, ha, hq⟩⟩

theorem StatusOk.zero : StatusOk 0 := by
  constructor <;> decide

theorem StatusOk.complete {w : Word} (h : StatusOk w) {c : BitVec 8} (hc : c.toNat ≤ 0x0A) :
    StatusOk (completeStatus c w) := by
  constructor <;> simp [h.reserved, hc]

theorem StatusOk.accept {w : Word} (h : StatusOk w) : StatusOk (acceptStatus w) := by
  constructor <;> simp [h.reserved]

theorem StatusOk.wbusy {w : Word} (h : StatusOk w) (b : Bool) : StatusOk (setStatusWbusy b w) := by
  constructor <;> simp only [reserved_wbusy, statusBusy_wbusy, statusDone_wbusy, statusErr_wbusy]
  exacts [h.reserved, h.busyNotDone, h.errOnlyDone, h.errAssigned]

theorem errorCode_le (e : CmdError) : (errorCode e).toNat ≤ 0x0A := by
  cases e <;> simp [errorCode]

theorem State.raise_errReq_le {s : State} (hs : s.errReq ≤ 32 + 8 * (2 ^ 32 - 1)) {e : CmdError}
    (he : e.ReqBounded) : (s.raise e).errReq ≤ 32 + 8 * (2 ^ 32 - 1) := by
  have hf := s.raise_failed e fun req avail h => (he req avail h).trans_lt (by norm_num)
  cases hl : errorLengths e with
  | none =>
    obtain ⟨hlo, hhi, -⟩ := hf.kept hl
    rwa [State.errReq, hlo, hhi]
  | some p =>
    obtain ⟨hreq, -⟩ := hf.recorded p.1 p.2 hl
    exact hreq ▸ he p.1 p.2 hl

theorem State.RegistersOk.raise {s : State} (h : s.RegistersOk) {e : CmdError} (he : e.ReqBounded) :
    (s.raise e).RegistersOk := by
  obtain ⟨hc, hst, hq⟩ := registersOk_iff.1 h
  refine registersOk_iff.2 ⟨?_, ?_, raise_errReq_le hq he⟩
  · simpa using hc
  · simpa using hst.complete (errorCode_le e)

theorem State.RegistersOk.finish {s : State} (h : s.RegistersOk) (m : Memory) (r0 r1 r2 : Nat) :
    (s.finish m r0 r1 r2).RegistersOk := by
  obtain ⟨hc, hst, hq⟩ := registersOk_iff.1 h
  exact registersOk_iff.2 ⟨hc, hst.complete (by decide), hq⟩

theorem State.RegistersOk.writeOffset {s : State} (h : s.RegistersOk) (off : BitVec 8) (v : Word) :
    (s.writeOffset off v).RegistersOk := by
  obtain ⟨hc, hst, hq⟩ := registersOk_iff.1 h
  rw [registersOk_iff, State.writeOffset_errReq]
  rcases s.writeOffset_cases off v with ⟨-, hc', hst'⟩ | ⟨-, -, hc', hst'⟩ | ⟨hc', hst'⟩ <;> rw [hst']
  · exact ⟨hc' ▸ hc, hst.wbusy true, hq⟩
  · exact ⟨hc' ▸ hc, hst.accept, hq⟩
  · refine ⟨?_, hst, hq⟩
    rcases hc' with hc' | hc' <;> rw [hc']
    · exact hc
    · exact and_one_shiftRight_one v

theorem State.registersOk_resetRegs (s : State) : s.resetRegs.RegistersOk := by
  rw [registersOk_iff, resetRegs_ctrl, resetRegs_status]
  exact ⟨by decide, .zero, by simp [State.errReq]⟩

theorem State.RegistersOk.of_readReg_eq {s t : State} (h : s.RegistersOk)
    (ht : ∀ r, t.readReg r = s.readReg r) : t.RegistersOk := by
  have hc : t.ctrl = s.ctrl := ht .ctrl
  have hst : t.status = s.status := ht .status
  have hlo : t.errReqLo = s.errReqLo := ht .errReqLo
  have hhi : t.errReqHi = s.errReqHi := ht .errReqHi
  rw [registersOk_iff, State.errReq, hc, hst, hlo, hhi]
  exact registersOk_iff.1 h

/-! ## The statements -/

/-- Settles O48: by the cases of what a step can do to the registers. -/
theorem stepKeepsRegistersOk : Obligations.StepKeepsRegistersOk := by
  intro s t hs h
  rcases step_register_cases h with
    ⟨-, e, he, rfl⟩ | ⟨-, m, r0, r1, r2, rfl⟩ | ⟨rest, off, v, -, rfl⟩ | ⟨-, -, u, rfl⟩ | hk
  · exact hs.raise he
  · exact hs.finish m r0 r1 r2
  · exact (hs.of_readReg_eq (State.readReg_takeAction rest s)).writeOffset off v
  · exact u.registersOk_resetRegs
  · exact hs.of_readReg_eq hk

/-- Settles O40: a completion keeps WBUSY, a dropped write sets it, and of the idle writes only the
accept touches `STATUS`. -/
theorem wbusyIsSticky : Obligations.WbusyIsSticky := by
  intro s t hset h hclear
  rcases step_register_cases h with
    ⟨-, e, -, rfl⟩ | ⟨-, m, r0, r1, r2, rfl⟩ | ⟨rest, off, v, hh, rfl⟩ | ⟨rest, hh, -⟩ | hk
  · simp [hset] at hclear
  · simp [hset] at hclear
  · refine ⟨_, rest, hh, .inr ?_⟩
    rcases (s.takeAction rest).writeOffset_cases off v with
      ⟨-, -, hst⟩ | ⟨hb, rfl, -, -⟩ | ⟨-, hst⟩
    · simp [hst] at hclear
    · exact ⟨hb, v, rfl⟩
    · simp [hst, hset] at hclear
  · exact ⟨_, rest, hh, .inl rfl⟩
  · have hst : t.status = s.status := hk .status
    simp [hst, hset] at hclear

/-- Settles O7: `CTRL` bit 0 is the parity of `CTRL`. -/
theorem headerWidthSelected : Obligations.HeaderWidthSelected := by
  intro s
  rw [s.headerWidth_eq]
  constructor <;> intro h <;> simp [h]

/-- Settles O45: each register's reset value is a field of `State.reset`. -/
theorem resetRegisterValues : Obligations.ResetRegisterValues :=
  ⟨rfl, rfl⟩

end Sys2Proof.Machine

/-! Data memory over a step: which bytes a command and a host action can write, what a command reads
of memory, and the statements of 20_memory.md and of memory's part in the other rules (O47, O31, O33, O37,
O38, O39, O50). -/

namespace Sys2Proof.Machine

open Sys2Proof

/-! ## The bytes a region bounds -/

/-- The second memory is the first one after writes to the region's bytes only (R108). -/
structure Memory.WrittenIn (r : Region) (m m' : Memory) : Prop where
  wf : Memory.wf m → Memory.wf m'
  cells : ∀ c ∈ m', r.holds c.1 ∨ c ∈ m
  outside : Memory.wf m → ∀ b, ¬ r.holds b → Memory.read m' b = Memory.read m b

theorem Memory.WrittenIn.refl (r : Region) (m : Memory) : Memory.WrittenIn r m m :=
  ⟨id, fun _ => .inr, fun _ _ _ => rfl⟩

theorem Memory.writeAll_writtenIn (m : Memory) {r : Region} {bytes : List Byte}
    (hlen : bytes.length ≤ r.len) : Memory.WrittenIn r m (Memory.writeAll m r.addr bytes) where
  wf h := Memory.writeAll_wf h _ _
  cells _ hc := (Memory.mem_writeAll hc).imp_left fun ⟨h1, h2⟩ => ⟨h1, by omega⟩
  outside h _ hb := Memory.read_writeAll_outside h (by omega)

theorem embedLoop_writtenIn (m : Memory) {r : Region} {frame : BitSeq}
    (hlen : frame.length ≤ r.len) : Memory.WrittenIn r m (embedLoop frame r.addr m).1 where
  wf h := embedLoop_wf h _ _
  cells _ hc := (mem_embedLoop hc).imp_left fun ⟨h1, h2⟩ => ⟨h1, by omega⟩
  outside h _ hb := read_embedLoop_outside h (by omega)

/-! ## The bytes a command writes -/

/-- The region a command may write, empty for a command that writes none (R108). -/
def State.writtenRegion (i : Instr) (s : State) : Region := (writesOf i s).getD ⟨0, 0⟩

/-- If the completion is a success, it leaves memory written inside the region only. -/
def Completion.WritesIn (r : Region) (m : Memory) (c : Completion) : Prop :=
  ∀ m' r0 r1 r2, c = .finish m' r0 r1 r2 → Memory.WrittenIn r m m'

theorem Completion.WritesIn.raise {r : Region} {m : Memory} {e : CmdError} :
    (Completion.raise e).WritesIn r m := by
  rintro _ _ _ _ ⟨⟩

theorem Completion.WritesIn.finish {r : Region} {m m' : Memory} {r0 r1 r2 : Nat}
    (h : Memory.WrittenIn r m m') : (Completion.finish m' r0 r1 r2).WritesIn r m := by
  rintro _ _ _ _ ⟨⟩
  exact h

theorem Completion.WritesIn.ite {r : Region} {m : Memory} {p : Prop} [Decidable p] {c d : Completion}
    (hc : c.WritesIn r m) (hd : ¬ p → d.WritesIn r m) : (if p then c else d).WritesIn r m := by
  split
  · exact hc
  · exact hd ‹_›

@[simp] theorem State.length_payloadFrame (s : State) : s.payloadFrame.length = s.frameLength := by
  simp [State.payloadFrame, State.frameLength]

/-- A command that succeeds has checked that what it writes fits its region (R108, R130 to R201). -/
theorem commandBody_writesIn (i : Instr) (s : State) :
    (commandBody i s).WritesIn (s.writtenRegion i) s.mem := by
  have dst {bytes : List Byte} (h : bytes.length ≤ s.dstLen.toNat) :
      Memory.WrittenIn s.dstRegion s.mem (Memory.writeAll s.mem s.dstAddr.toNat bytes) :=
    Memory.writeAll_writtenIn s.mem h
  cases i with
  | bytetobits => exact .ite .raise fun _ => .ite .raise fun h => .finish (dst (by simp; omega))
  | bitstobyte => exact .ite .raise fun _ => .ite .raise fun _ => .finish (.refl _ _)
  | bytestobits => exact .ite .raise fun h => .finish (dst (by simp; omega))
  | bitstobytes => exact .ite .raise fun h => .ite .raise fun _ => .finish (dst (by simp; omega))
  | extractlsb => exact .ite .raise fun h => .finish (dst (by simp; omega))
  | lenhdrbits => exact .ite .raise fun _ => .ite .raise fun h => .finish (dst (by simp; omega))
  | buildframe => exact .ite .raise fun _ => .ite .raise fun h => .finish (dst (by simp; omega))
  | parseheader => exact .ite .raise fun _ => .finish (.refl _ _)
  | embed =>
    exact .ite .raise fun _ => .ite .raise fun h =>
      .finish (embedLoop_writtenIn s.mem (r := s.bufRegion) (by simp [State.bufRegion]; omega))
  | extract =>
    exact .ite .raise fun _ => .ite .raise fun _ => .ite .raise fun h =>
      .finish (dst (by simp; omega))

/-- What a command does to data memory: nothing, or, past its common checks, writes to its written
region (R107, R108). -/
theorem exec_mem_cases {i : Instr} {s t : State} (h : exec i s = .next t) :
    t.mem = s.mem ∨
    (commonChecks i s = none ∧ Memory.WrittenIn (s.writtenRegion i) s.mem t.mem) := by
  rw [exec_eq, Host.Outcome.next.injEq] at h
  subst h
  rcases s.runCommand_cases i (commandBody i s) with ⟨e, -, he⟩ | ⟨hc, he⟩ <;> rw [he]
  · exact .inl (s.raise_mem e)
  · cases hb : commandBody i s with
    | raise e => exact .inl (s.raise_mem e)
    | finish m r0 r1 r2 => exact .inr ⟨hc, commandBody_writesIn i s m r0 r1 r2 hb⟩

/-- The written region is one of the checked ones, or empty (R108). -/
theorem State.writtenRegion_mem (i : Instr) (s : State) :
    s.writtenRegion i ∈ regionsOf i s ∨ s.writtenRegion i = ⟨0, 0⟩ := by
  cases i <;> simp [State.writtenRegion, writesOf, regionsOf]

/-- Past the common checks the written region lies below MEM_SIZE (R68, R105). -/
theorem State.writtenRegion_inRange {i : Instr} {s : State} (h : commonChecks i s = none) :
    (s.writtenRegion i).inRange s.memSize := by
  have hin : ∀ r ∈ regionsOf i s, r.inRange s.memSize := by
    rcases commonChecks_eq i s with ⟨hc, -⟩ | ⟨hin, -⟩
    · cases hc.symm.trans h
    · exact hin
  rcases s.writtenRegion_mem i with hm | h0
  · exact hin _ hm
  · simp [h0]

/-! ## The bytes a step writes -/

/-- The inversion of a host action (R100 to R103, R72, R74, R250): a fault mark, a value read, a
register write, a byte write outside every owned region, or a reset. -/
theorem hostAct_cases {a : HostAction} {s t : State} (h : hostAct a s = .next t) :
    (∃ f, t = s.markFault f) ∨
    (∃ d q, t = { s with readData := d, hostQueue := q }) ∨
    (∃ off v, a = .regWrite 32 off v ∧ t = s.writeOffset off v) ∨
    (∃ b v, a = .memWrite b v ∧ b < s.memSize ∧ s.owned b = false ∧
      t = { s with mem := Memory.write s.mem b v }) ∨
    (a = .assertReset ∧ t = if s.busy then s.scramble.resetRegs else s.resetRegs) := by
  cases a with
  | regRead bits off =>
    simp only [hostAct, hostRegRead] at h
    split at h <;> injection h with h
    · exact .inr (.inl ⟨_, s.hostQueue, h.symm⟩)
    · exact .inl ⟨_, h.symm⟩
  | regWrite bits off v =>
    simp only [hostAct, hostRegWrite] at h
    split at h <;> injection h with h
    · have hb : bits = 32 := by simp_all [regAccessWellFormed, accessWidthOk]
      exact .inr (.inr (.inl ⟨off, v, by rw [hb], h.symm⟩))
    · exact .inl ⟨_, h.symm⟩
  | memRead b =>
    simp only [hostAct, hostMemRead] at h
    split_ifs at h <;> injection h with h
    · exact .inl ⟨_, h.symm⟩
    · exact .inr (.inl ⟨_, s.hostQueue, h.symm⟩)
  | memWrite b v =>
    simp only [hostAct, hostMemWrite] at h
    split_ifs at h with hsize howned <;> injection h with h
    · exact .inl ⟨_, h.symm⟩
    · exact .inr (.inr (.inr (.inl ⟨b, v, rfl, by omega, by simpa using howned, h.symm⟩)))
  | assertReset =>
    injection h with h
    exact .inr (.inr (.inr (.inr ⟨rfl, h.symm⟩)))
  | waitIdle =>
    simp only [hostAct, hostWait] at h
    split at h <;> injection h with h
    · exact .inr (.inl ⟨_, _, h.symm⟩)
    · exact .inr (.inl ⟨_, s.hostQueue, h.symm⟩)

/-- MEM_SIZE is kept, and memory is written inside one region of bytes that exist (R60, log entry 2). -/
def WritesExistingBytes (s t : State) : Prop :=
  t.memSize = s.memSize ∧
  ∃ r : Region, (∀ a, r.holds a → a < s.memSize) ∧ Memory.WrittenIn r s.mem t.mem

theorem WritesExistingBytes.of_mem_eq {s t : State} (hsize : t.memSize = s.memSize)
    (hmem : t.mem = s.mem) : WritesExistingBytes s t :=
  ⟨hsize, ⟨0, 0⟩, fun _ ha => by simp only [Region.holds] at ha; omega, hmem ▸ .refl _ _⟩

theorem coreStep_writesExistingBytes {s t : State} (h : coreStep s = .next t) :
    WritesExistingBytes s t := by
  rcases coreStep_cases h with rfl | ⟨i, -, hx⟩
  · exact .of_mem_eq (by simp) (by simp)
  · have hsize : t.memSize = s.memSize := (exec_frame hx).memSize
    rcases exec_mem_cases hx with hm | ⟨hc, hw⟩
    · exact .of_mem_eq hsize hm
    · have hr := State.writtenRegion_inRange hc
      exact ⟨hsize, _, fun a ha => ha.2.trans_le hr, hw⟩

/-- A reset of a busy block draws for the existing bytes of the dropped region only (log entry 11). -/
theorem scramble_writesExistingBytes (s : State) : WritesExistingBytes s s.scramble := by
  refine ⟨rfl, ⟨s.droppedRegion.addr, s.droppedRegion.bytesIn s.memSize⟩, fun a ha => ?_,
    Memory.writeAll_writtenIn s.mem (by simp)⟩
  simp only [Region.holds, Region.bytesIn] at ha
  omega

theorem hostAct_writesExistingBytes {a : HostAction} {s t : State} (h : hostAct a s = .next t) :
    WritesExistingBytes s t := by
  rcases hostAct_cases h with
    ⟨f, rfl⟩ | ⟨d, q, rfl⟩ | ⟨off, v, -, rfl⟩ | ⟨b, v, -, hb, -, rfl⟩ | ⟨-, rfl⟩
  · exact .of_mem_eq rfl rfl
  · exact .of_mem_eq rfl rfl
  · obtain ⟨hmem, hsize, -⟩ := s.writeOffset_frame off v
    exact .of_mem_eq hsize hmem
  · exact ⟨rfl, ⟨b, 1⟩, fun a ha => by simp only [Region.holds] at ha; omega,
      Memory.writeAll_writtenIn s.mem (bytes := [v]) le_rfl⟩
  · split
    · exact scramble_writesExistingBytes s
    · exact .of_mem_eq rfl rfl

theorem step_writesExistingBytes {s t : State} (h : step s = .next t) : WritesExistingBytes s t := by
  rcases step_cases s with ⟨-, hs⟩ | ⟨a, rest, -, hs⟩ | ⟨-, -, hs⟩ <;> rw [h] at hs
  · exact coreStep_writesExistingBytes hs.symm
  · have hw : WritesExistingBytes (s.takeAction rest) t := hostAct_writesExistingBytes hs.symm
    exact hw
  · unfold restStep at hs
    split at hs <;> cases hs
    exact .of_mem_eq rfl rfl

theorem State.MemoryOk.of_writesExistingBytes {s t : State} (hs : s.MemoryOk)
    (h : WritesExistingBytes s t) : t.MemoryOk := by
  obtain ⟨hsize, r, hr, hw⟩ := h
  refine ⟨hw.wf hs.wf, fun c hc => ?_, hsize ▸ hs.sizeOk⟩
  rw [hsize]
  exact (hw.cells c hc).elim (hr c.1) (hs.inSize c)

/-! ## What a command reads of memory -/

/-- Two memories in canonical form read the same at the addresses of a set. -/
structure Memory.AgreeOn (P : Nat → Prop) (m m' : Memory) : Prop where
  left : Memory.wf m
  right : Memory.wf m'
  read_eq : ∀ a, P a → Memory.read m' a = Memory.read m a

theorem Memory.AgreeOn.write {P : Nat → Prop} {m m' : Memory} (h : Memory.AgreeOn P m m') (a : Nat)
    (v : Byte) : Memory.AgreeOn P (Memory.write m a v) (Memory.write m' a v) where
  left := Memory.write_wf h.left a v
  right := Memory.write_wf h.right a v
  read_eq b hb := by rw [Memory.read_write h.right, Memory.read_write h.left, h.read_eq b hb]

theorem Memory.AgreeOn.writeAll {P : Nat → Prop} {m m' : Memory} (h : Memory.AgreeOn P m m') (a : Nat)
    (bytes : List Byte) :
    Memory.AgreeOn P (Memory.writeAll m a bytes) (Memory.writeAll m' a bytes) := by
  induction bytes generalizing m m' a with
  | nil => exact h
  | cons b bs ih => exact ih (h.write a b) (a + 1)

theorem Memory.AgreeOn.readAll_eq {P : Nat → Prop} {m m' : Memory} (h : Memory.AgreeOn P m m')
    {a n : Nat} (hP : ∀ b, a ≤ b → b < a + n → P b) :
    Memory.readAll m' a n = Memory.readAll m a n :=
  Memory.readAll_congr fun k hk => h.read_eq (a + k) (hP _ (by omega) (by omega))

/-- The loop of EMBED counts the same changes and makes them alike, when the frame's carrier bytes read
the same (R181). -/
theorem Memory.AgreeOn.embedLoop {P : Nat → Prop} {m m' : Memory} (h : Memory.AgreeOn P m m')
    {frame : BitSeq} {a : Nat} (hP : ∀ b, a ≤ b → b < a + frame.length → P b) :
    Memory.AgreeOn P (embedLoop frame a m).1 (embedLoop frame a m').1 ∧
      (Machine.embedLoop frame a m').2 = (Machine.embedLoop frame a m).2 := by
  induction frame generalizing m m' a with
  | nil => exact ⟨h, rfl⟩
  | cons f fs ih =>
    simp only [List.length_cons] at hP
    have hread : Memory.read m' a = Memory.read m a := h.read_eq a (hP a le_rfl (by omega))
    have hrest : ∀ b, a + 1 ≤ b → b < a + 1 + fs.length → P b :=
      fun b h1 h2 => hP b (by omega) (by omega)
    simp only [Machine.embedLoop, hread]
    split
    · obtain ⟨hm, hc⟩ := ih (h.write a _) hrest
      exact ⟨hm, by rw [hc]⟩
    · exact ih h hrest

/-- Two completions with the same error, or with the same results and memories that agree on the set. -/
inductive Completion.Alike (P : Nat → Prop) : Completion → Completion → Prop where
  | raise {e : CmdError} : Alike P (.raise e) (.raise e)
  | finish {m m' : Memory} {r0 r1 r2 : Nat} (h : Memory.AgreeOn P m m') :
      Alike P (.finish m r0 r1 r2) (.finish m' r0 r1 r2)

/-- The same check on both sides; what it has let through may be used of the rest. -/
theorem Completion.Alike.ite {P : Nat → Prop} {p : Prop} [Decidable p] {c c' d d' : Completion}
    (hc : Completion.Alike P c c') (hd : ¬ p → Completion.Alike P d d') :
    Completion.Alike P (if p then c else d) (if p then c' else d') := by
  split
  · exact hc
  · exact hd ‹_›

/-- An address lies in one of a command's regions (R108). -/
def InRegions (i : Instr) (s : State) (a : Nat) : Prop := ∃ r ∈ regionsOf i s, r.holds a

section
variable {i : Instr} {s : State} {m : Memory}

theorem State.bufHeader_congr (h : Memory.AgreeOn (InRegions i s) s.mem m)
    (hbuf : s.bufRegion ∈ regionsOf i s) (hlen : s.headerWidth ≤ s.bufLen.toNat) :
    State.bufHeader { s with mem := m } = s.bufHeader := by
  have hr : Memory.readAll m s.bufAddr.toNat s.headerWidth =
      Memory.readAll s.mem s.bufAddr.toNat s.headerWidth :=
    h.readAll_eq fun b h1 h2 => ⟨_, hbuf, h1, by simp only [State.bufRegion]; omega⟩
  exact congrArg (fun bytes => headerValue (extractLsb bytes)) hr

theorem readAll_src_congr (h : Memory.AgreeOn (InRegions i s) s.mem m)
    (hsrc : s.srcRegion ∈ regionsOf i s) :
    Memory.readAll m s.srcAddr.toNat s.srcLen.toNat =
      Memory.readAll s.mem s.srcAddr.toNat s.srcLen.toNat :=
  h.readAll_eq fun _ h1 h2 => ⟨_, hsrc, h1, h2⟩

theorem State.payloadFrame_congr (h : Memory.AgreeOn (InRegions i s) s.mem m)
    (hsrc : s.srcRegion ∈ regionsOf i s) :
    State.payloadFrame { s with mem := m } = s.payloadFrame :=
  congrArg (fun bytes => buildFrame bytes s.headerWidth) (readAll_src_congr h hsrc)

theorem commonChecks_mem_irrelevant (i : Instr) (s : State) (m : Memory) :
    commonChecks i { s with mem := m } = commonChecks i s := by
  cases i <;> rfl

/-- The bodies read memory in the command's regions only: SRC whole, BITSTOBYTE's once its length is 8;
BUF's header once it fits, EXTRACT's payload once it is there, EMBED's carrier once it has capacity. -/
theorem commandBody_alike (h : Memory.AgreeOn (InRegions i s) s.mem m) :
    Completion.Alike (InRegions i s) (commandBody i s) (commandBody i { s with mem := m }) := by
  cases i with
  | bytetobits => exact .ite .raise fun _ => .ite .raise fun _ => .finish (h.writeAll _ _)
  | bitstobyte =>
    refine .ite .raise fun hlen => ?_
    have hsrc := readAll_src_congr h (by simp [regionsOf])
    rw [not_not.1 hlen] at hsrc
    simp only [hsrc]
    exact .ite .raise fun _ => .finish h
  | bytestobits =>
    refine .ite .raise fun _ => ?_
    simp only [readAll_src_congr h (by simp [regionsOf])]
    exact .finish (h.writeAll _ _)
  | bitstobytes =>
    refine .ite .raise fun _ => ?_
    simp only [readAll_src_congr h (by simp [regionsOf])]
    exact .ite .raise fun _ => .finish (h.writeAll _ _)
  | extractlsb =>
    refine .ite .raise fun _ => ?_
    simp only [readAll_src_congr h (by simp [regionsOf])]
    exact .finish (h.writeAll _ _)
  | lenhdrbits => exact .ite .raise fun _ => .ite .raise fun _ => .finish (h.writeAll _ _)
  | buildframe =>
    refine .ite .raise fun _ => .ite .raise fun _ => ?_
    rw [State.payloadFrame_congr h (by simp [regionsOf])]
    exact .finish (h.writeAll _ _)
  | parseheader =>
    refine .ite .raise fun hlen => ?_
    rw [State.bufHeader_congr h (by simp [regionsOf]) (by omega)]
    exact .finish h
  | embed =>
    refine .ite .raise fun _ => .ite .raise fun hlen => ?_
    rw [State.payloadFrame_congr h (by simp [regionsOf])]
    obtain ⟨hm, hcount⟩ := h.embedLoop (frame := s.payloadFrame) (a := s.bufAddr.toNat)
      fun b h1 h2 => ⟨s.bufRegion, by simp [regionsOf], h1, by
        rw [s.length_payloadFrame] at h2
        simp only [State.bufRegion]
        omega⟩
    rw [hcount]
    exact .finish hm
  | extract =>
    refine .ite .raise fun hlen => ?_
    rw [State.bufHeader_congr h (by simp [regionsOf]) (by omega)]
    refine .ite .raise fun havail => .ite .raise fun _ => ?_
    have hpay := h.readAll_eq (a := s.bufAddr.toNat + s.headerWidth) (n := s.bufHeader)
      fun b h1 h2 => ⟨s.bufRegion, by simp [regionsOf], by
        simp only [State.bufRegion, Region.holds]
        omega⟩
    rw [← hpay]
    exact .finish (h.writeAll _ _)

/-- Alike completions change the registers alike, and leave memories that agree. -/
theorem State.complete_alike {P : Nat → Prop} {c d : Completion} (h : Memory.AgreeOn P s.mem m)
    (hcd : Completion.Alike P c d) :
    ∃ m', State.complete d { s with mem := m } = { s.complete c with mem := m' } ∧
      Memory.AgreeOn P (s.complete c).mem m' := by
  cases hcd with
  | finish hm => exact ⟨_, rfl, hm⟩
  | @raise e => exact ⟨m, by cases e <;> rfl, (s.raise_mem e).symm ▸ h⟩

theorem exec_alike (h : Memory.AgreeOn (InRegions i s) s.mem m) {t v : State}
    (ht : exec i s = .next t) (hv : exec i { s with mem := m } = .next v) :
    ∃ m', v = { t with mem := m' } ∧ Memory.AgreeOn (InRegions i s) t.mem m' := by
  rw [exec_eq, Host.Outcome.next.injEq] at ht hv
  subst ht hv
  have hchecks := commonChecks_mem_irrelevant i s m
  cases hc : commonChecks i s with
  | some e =>
    rw [State.runCommand_some _ hc, State.runCommand_some _ (hchecks.trans hc)]
    exact State.complete_alike h (.raise (e := e))
  | none =>
    rw [State.runCommand_none _ hc, State.runCommand_none _ (hchecks.trans hc)]
    exact State.complete_alike h (commandBody_alike h)

end

/-! ## Memory at launch -/

/-- A listed cell's address reads as the cell's byte. -/
theorem Memory.read_of_mem {m : Memory} (h : Memory.wf m) {c : Host.Cell} (hc : c ∈ m) :
    Memory.read m c.1 = c.2 := by
  induction m with
  | nil => cases hc
  | cons d m ih =>
    obtain ⟨k, v⟩ := d
    obtain ⟨-, hk, hm⟩ := Memory.wf_cons.1 h
    rw [Memory.read_cons]
    rcases List.mem_cons.1 hc with rfl | hc
    · rw [if_pos rfl]
    · rw [if_neg (hk c hc).ne', ih hm hc]

theorem read_launchMemory {size a : Nat} (byte : Nat → Byte) (ha : a < size) :
    Memory.read (launchMemory size byte) a = byte a := by
  by_cases hb : byte a = unlistedByte
  · rw [hb]
    refine Memory.read_of_forall_ne ?_
    rintro c hc rfl
    obtain ⟨-, hval, hne⟩ := mem_launchMemory.1 hc
    exact hne (hval.trans hb)
  · exact Memory.read_of_mem (launchMemory_wf size byte) (c := (a, byte a))
      (mem_launchMemory.2 ⟨ha, rfl, hb⟩)

/-! ## Host accesses, case by case -/

theorem regAccessWellFormed_eq_false {bits : Nat} {off : BitVec 8}
    (h : bits ≠ 32 ∨ off.toNat % 4 ≠ 0) : regAccessWellFormed bits off = false := by
  simpa [regAccessWellFormed, accessWidthOk, accessAligned, imp_iff_not_or] using h

theorem hostRegRead_bad {bits : Nat} {off : BitVec 8} (h : regAccessWellFormed bits off = false)
    (s : State) : hostRegRead bits off s = .next (s.markFault .hostAccess) := by
  simp [hostRegRead, h]

theorem hostRegWrite_bad {bits : Nat} {off : BitVec 8} (h : regAccessWellFormed bits off = false)
    (v : Word) (s : State) : hostRegWrite bits off v s = .next (s.markFault .hostAccess) := by
  simp [hostRegWrite, h]

section
variable {s : State} {a : Nat} {v : Byte}

theorem hostMemRead_missing (h : s.memSize ≤ a) : hostMemRead a s = .fault .noSuchAddress := by
  simp [hostMemRead, h]

theorem hostMemRead_owned (h : a < s.memSize) (ho : s.owned a = true) :
    hostMemRead a s = .next (s.markFault .hostRace) := by
  simp [hostMemRead, h.not_ge, ho]

theorem hostMemRead_free (h : a < s.memSize) (ho : s.owned a = false) :
    hostMemRead a s = .next { s with readData := (Memory.read s.mem a).setWidth 32 } := by
  simp [hostMemRead, h.not_ge, ho]

theorem hostMemWrite_missing (h : s.memSize ≤ a) : hostMemWrite a v s = .fault .noSuchAddress := by
  simp [hostMemWrite, h]

theorem hostMemWrite_owned (h : a < s.memSize) (ho : s.owned a = true) :
    hostMemWrite a v s = .next (s.markFault .hostRace) := by
  simp [hostMemWrite, h.not_ge, ho]

theorem hostMemWrite_free (h : a < s.memSize) (ho : s.owned a = false) :
    hostMemWrite a v s = .next { s with mem := Memory.write s.mem a v } := by
  simp [hostMemWrite, h.not_ge, ho]

end

/-! ## The statements -/

/-- Settles O47: a step writes existing bytes only, in canonical form. -/
theorem stepKeepsMemoryOk : Obligations.StepKeepsMemoryOk :=
  fun _ _ hs h => hs.of_writesExistingBytes (step_writesExistingBytes h)

/-- Settles O31: the common checks read registers only, and the bodies of two runs are alike. -/
theorem commandReadsOnlyItsRegions : Obligations.CommandReadsOnlyItsRegions := by
  intro i s u t v hs hu hregs hbytes ht hv
  have hagree : Memory.AgreeOn (InRegions i s) s.mem u.mem :=
    ⟨hs, hu, fun a ⟨r, hr, ha⟩ => BitVec.eq_of_toNat_eq (hbytes r hr a ha)⟩
  rw [hregs] at hv
  obtain ⟨m', rfl, hm⟩ := exec_alike hagree ht hv
  exact ⟨rfl, fun r hr a ha => congrArg BitVec.toNat (hm.read_eq a ⟨r, hr, ha⟩)⟩

/-- Settles O33: when two regions overlap, the higher of their first addresses lies in both. -/
theorem overlapIsSharedAddress : Obligations.OverlapIsSharedAddress := by
  intro r t
  simp only [Region.overlaps, Region.holds]
  constructor
  · intro h
    exact ⟨max r.addr t.addr, by omega⟩
  · rintro ⟨a, hr, ht⟩
    omega

/-- Settles O37: both accesses only set the mark. -/
theorem badRegisterAccessFaults : Obligations.BadRegisterAccessFaults := by
  intro s bits off rest v hbad hturn
  have hf := regAccessWellFormed_eq_false hbad
  rcases hturn with hh | hh
  · exact hh.step_eq.trans (hostRegRead_bad hf _)
  · exact hh.step_eq.trans (hostRegWrite_bad hf v _)

/-- Settles O38: by whether the address exists and whether it is owned. -/
theorem hostMemoryAccess : Obligations.HostMemoryAccess := by
  intro s a rest v hwf
  have howned := owned_takeAction rest s a
  refine ⟨fun hh => ⟨?_, ?_, ?_⟩, fun hh => ⟨?_, ?_, ?_⟩⟩ <;> rw [hh.step_eq]
  · exact fun ha => hostMemRead_missing ha
  · exact fun ha ho => hostMemRead_owned ha (howned.trans ho)
  · intro ha ho
    refine ⟨(Memory.read s.mem a).setWidth 32, ?_, hostMemRead_free ha (howned.trans ho)⟩
    exact BitVec.toNat_setWidth_of_le (by norm_num)
  · exact fun ha => hostMemWrite_missing ha
  · exact fun ha ho => hostMemWrite_owned ha (howned.trans ho)
  · intro ha ho
    exact ⟨Memory.write s.mem a v, hostMemWrite_free ha (howned.trans ho),
      Memory.read_write_same hwf a v, fun b hb => Memory.read_write_ne hwf v hb⟩

/-- Settles O39: of the host's actions only a register write touches a register, and while busy it is
dropped. -/
theorem registersFrozenWhileBusy : Obligations.RegistersFrozenWhileBusy := by
  intro s t h rest hbusy hh hne hstep
  rw [hh.step_eq] at hstep
  rcases hostAct_cases hstep with
    ⟨f, rfl⟩ | ⟨d, q, rfl⟩ | ⟨off, v, -, rfl⟩ | ⟨b, v, -, -, -, rfl⟩ | ⟨rfl, -⟩
  · exact ⟨rfl, .inl rfl⟩
  · exact ⟨rfl, .inl rfl⟩
  · rw [State.writeOffset_busy (s := s.takeAction rest) hbusy]
    exact ⟨rfl, .inr rfl⟩
  · exact ⟨rfl, .inl rfl⟩
  · exact absurd rfl hne

/-- Settles O50: a byte is listed with its value, or it is the unlisted one. -/
theorem launchMemoryHoldsItsParameter : Obligations.LaunchMemoryHoldsItsParameter :=
  ⟨fun _ byte _ ha => read_launchMemory byte ha, fun _ ha => read_launchMemory _ ha⟩

end Sys2Proof.Machine

/-! The decoder and the encoder as inverses, over all words; what an illegal word does; and the
statements of 30_encoding.md that follow (O1, O2, O3, O4, O6). -/

namespace Sys2Proof

/-! ## Words, opcodes and commands -/

theorem shiftRight_eight_eq_zero_iff (w : Word) : w >>> 8 = 0 ↔ w.toNat / 2 ^ 8 = 0 := by
  rw [← BitVec.toNat_inj, BitVec.toNat_ushiftRight, Nat.shiftRight_eq_div_pow]
  rfl

/-- The opcode map assigns 0x01 to 0x0A and nothing else (R82). -/
theorem exists_opcode_iff (n : Nat) : (∃ i, (opcode i).toNat = n) ↔ 0x01 ≤ n ∧ n ≤ 0x0A := by
  constructor
  · rintro ⟨i, rfl⟩
    cases i <;> decide
  · rintro ⟨h1, h2⟩
    interval_cases n
    exacts [⟨.bytetobits, rfl⟩, ⟨.bitstobyte, rfl⟩, ⟨.bytestobits, rfl⟩, ⟨.bitstobytes, rfl⟩,
      ⟨.extractlsb, rfl⟩, ⟨.lenhdrbits, rfl⟩, ⟨.buildframe, rfl⟩, ⟨.parseheader, rfl⟩,
      ⟨.embed, rfl⟩, ⟨.extract, rfl⟩]

theorem toNat_encode (i : Instr) : (encode i).toNat = (opcode i).toNat :=
  BitVec.toNat_setWidth_of_le (by omega)

/-- The per-command law of the encoding, for every command. -/
theorem encodeDecode_statement : ∀ i, Laws.EncodeDecode.Statement i
  | .bytetobits => Laws.EncodeDecode.bytetobits
  | .bitstobyte => Laws.EncodeDecode.bitstobyte
  | .bytestobits => Laws.EncodeDecode.bytestobits
  | .bitstobytes => Laws.EncodeDecode.bitstobytes
  | .extractlsb => Laws.EncodeDecode.extractlsb
  | .lenhdrbits => Laws.EncodeDecode.lenhdrbits
  | .buildframe => Laws.EncodeDecode.buildframe
  | .parseheader => Laws.EncodeDecode.parseheader
  | .embed => Laws.EncodeDecode.embed
  | .extract => Laws.EncodeDecode.extract

theorem decode_encode (i : Instr) : decode (encode i) = .ok i := by
  obtain ⟨-, -, h⟩ := encodeDecode_statement i
  exact h

/-- The two fields of a word, reserved and opcode, determine it (R81). -/
theorem encode_eq_of_fields {w : Word} {i : Instr} (hreserved : w >>> 8 = 0)
    (hopcode : (w.setWidth 8).toNat = (opcode i).toNat) : encode i = w := by
  rw [shiftRight_eight_eq_zero_iff] at hreserved
  rw [BitVec.toNat_setWidth] at hopcode
  apply BitVec.eq_of_toNat_eq
  rw [toNat_encode]
  omega

theorem encode_of_decode {w : Word} {i : Instr} (h : decode w = .ok i) : encode i = w := by
  unfold decode at h
  split at h
  case isTrue => cases h
  case isFalse hreserved =>
    rw [ne_eq, not_not] at hreserved
    split at h <;> cases h <;> exact encode_eq_of_fields hreserved ‹_›

/-- A command's word is the zero extension of its opcode, and it has no other (R82). -/
theorem decode_eq_ok_iff (w : Word) (i : Instr) :
    decode w = .ok i ↔ w.toNat = (opcode i).toNat := by
  rw [← toNat_encode, BitVec.toNat_inj]
  constructor
  · exact fun h => (encode_of_decode h).symm
  · rintro rfl
    exact decode_encode i

/-- The legal words in plain numbers: reserved field 0 and an assigned opcode (R82). -/
theorem exists_decode_iff (w : Word) :
    (∃ i, decode w = .ok i) ↔
      w.toNat / 2 ^ 8 = 0 ∧ 0x01 ≤ w.toNat % 2 ^ 8 ∧ w.toNat % 2 ^ 8 ≤ 0x0A := by
  simp only [decode_eq_ok_iff, eq_comm (a := w.toNat), exists_opcode_iff]
  omega

theorem wordWellFormed_iff (w : Word) :
    wordWellFormed w = true ↔
      w.toNat / 2 ^ 8 = 0 ∧ 0x01 ≤ w.toNat % 2 ^ 8 ∧ w.toNat % 2 ^ 8 ≤ 0x0A := by
  simp only [wordWellFormed, reservedClear, opcodeAssigned, Bool.and_eq_true, beq_iff_eq,
    decide_eq_true_eq, shiftRight_eight_eq_zero_iff, BitVec.toNat_setWidth]

end Sys2Proof

namespace Sys2Proof.Machine

open Sys2Proof

/-! ## An illegal word, and WAIT -/

/-- A command word written while idle is accepted, whatever it is (R102). -/
theorem hostAct_cmdWrite_idle {s : State} (h : s.busy = false) (v : Word) :
    hostAct (.regWrite 32 0x04 v) s = .next (s.accept v) := by
  have hw : s.writeOffset 0x04 v = s.accept v := by
    rw [State.writeOffset, h]
    rfl
  rw [← hw]
  rfl

theorem ownedRegions_of_illegal {s : State} (h : ∀ i, decode s.cmd ≠ .ok i) :
    s.ownedRegions = [] := by
  unfold State.ownedRegions
  split
  · cases hd : decode s.cmd with
    | ok i => exact absurd hd (h i)
    | error e => rfl
  · rfl

theorem coreStep_of_illegal {s : State} (h : ∀ i, decode s.cmd ≠ .ok i) :
    coreStep s = .next (s.raise .illegal) := by
  unfold coreStep
  cases hd : decode s.cmd with
  | ok i => exact absurd hd (h i)
  | error e => rfl

theorem State.raise_illegal_failed (s : State) : Failed s (s.raise .illegal) 0x03 none :=
  s.raise_failed .illegal (by simp [errorLengths])

theorem hostWait_eq (s : State) :
    hostWait s = .next { s with
      readData := s.status
      hostQueue := if statusBusy s.status = true then .waitIdle :: s.hostQueue else s.hostQueue } := by
  unfold hostWait State.busy
  split <;> rfl

/-! ## The statements -/

/-- Settles O3: decoding inverts encoding command by command, and a legal word is its command's. -/
theorem encodeAndDecodeInvert : Obligations.EncodeAndDecodeInvert :=
  ⟨decode_encode, fun _ _ => encode_of_decode,
    fun w => (wordWellFormed_iff w).trans (exists_decode_iff w).symm⟩

/-- Settles O2: each command's one word is its opcode's number, and the opcodes are 0x01 to 0x0A. -/
theorem wordSelectsCommandExactly : Obligations.WordSelectsCommandExactly := by
  refine ⟨fun w => ?_, exists_decode_iff⟩
  have hword := decode_eq_ok_iff w
  exact ⟨hword .bytetobits, hword .bitstobyte, hword .bytestobits, hword .bitstobytes,
    hword .extractlsb, hword .lenhdrbits, hword .buildframe, hword .parseheader,
    hword .embed, hword .extract⟩

/-- Settles O6: the accept does not look at the word, and the core step of a word that decodes to no
command raises E_ILLEGAL. -/
theorem illegalWordOnlyFails : Obligations.IllegalWordOnlyFails := by
  constructor
  · intro s rest w hturn hidle hillegal
    have hstep := hturn.step_eq.trans (hostAct_cmdWrite_idle (s := s.takeAction rest) hidle w)
    exact ⟨_, hstep, rfl, statusBusy_accept _, rfl, ownedRegions_of_illegal hillegal⟩
  · intro s hturn hword
    have hillegal : ∀ i, decode s.cmd ≠ .ok i := by
      rw [← not_exists, exists_decode_iff]
      omega
    exact ⟨_, hturn.step_eq.trans (coreStep_of_illegal hillegal), s.raise_illegal_failed⟩

/-- Settles O1: ten words of the map and five illegal ones, each decoded. -/
theorem opcodeMapWordsDecode : Obligations.OpcodeMapWordsDecode :=
  ⟨rfl, rfl, rfl, rfl, rfl, rfl, rfl, rfl, rfl, rfl, rfl, rfl, rfl, rfl, rfl⟩

/-- Settles O4: the expansions are read off, and a turn of WAIT is one read of `STATUS`. -/
theorem pseudoInstructionsExpand : Obligations.PseudoInstructionsExpand := by
  refine ⟨fun _ => rfl, rfl, rfl, rfl, rfl, fun _ _ => rfl, fun _ _ => rfl, fun _ _ => rfl, ?_⟩
  intro s rest hturn
  exact ⟨_, hturn.step_eq.trans (hostWait_eq _), rfl⟩

end Sys2Proof.Machine

/-! The command cycle of 40_command_cycle.md: how a core step completes and what it writes (O5, O8, O29,
O30, O32), and what an aligned register access of the host does (O34, O35, O36). -/

namespace Sys2Proof.Machine

open Sys2Proof

/-! ## The completion of a command -/

theorem coreStep_of_decode {s : State} {i : Instr} (h : decode s.cmd = .ok i) :
    coreStep s = exec i s := by
  rw [coreStep, h]

/-- Both completions write `STATUS` alike, but for the code (R106, R107). -/
theorem exec_status {i : Instr} {s t : State} (h : exec i s = .next t) :
    ∃ c, t.status = completeStatus c s.status := by
  rcases exec_cases h with ⟨e, rfl⟩ | ⟨m, r0, r1, r2, rfl⟩
  · exact ⟨errorCode e, s.raise_status e⟩
  · exact ⟨0x00, s.finish_status m r0 r1 r2⟩

/-- The three codes that record lengths (R107, R220). -/
theorem errorLengths_eq_none {e : CmdError} (h : errorCode e ∉ [0x01, 0x02, 0x09]) :
    errorLengths e = none := by
  cases e with
  | capacity | extract | dstSmall => exact absurd (by simp [errorCode]) h
  | _ => rfl

theorem raise_errReq_of_none {e : CmdError} (h : errorLengths e = none) (s : State) :
    (s.raise e).errReq = s.errReq ∧ (s.raise e).errAvail = s.errAvail := by
  simp [State.raise, h, State.errReq]

/-- A nonzero code is an error's, so the command raised it (R220). -/
theorem exec_eq_raise {i : Instr} {s t : State} (h : exec i s = .next t)
    (hcode : statusErr t.status ≠ 0x00) : ∃ e, t = s.raise e := by
  rcases exec_cases h with he | ⟨m, r0, r1, r2, rfl⟩
  · exact he
  · exact absurd (statusErr_complete 0x00 s.status) hcode

/-! ## The bytes a command leaves alone -/

theorem exec_memoryFrame {i : Instr} {s t : State} (hwf : Memory.wf s.mem)
    (h : exec i s = .next t) :
    MemoryFrame s t (s.writtenRegion i).addr (s.writtenRegion i).len := by
  intro b hb
  rcases exec_mem_cases h with hm | ⟨-, hw⟩
  · rw [hm]
  · exact hw.outside hwf b (by simp only [Region.holds]; omega)

/-- The commands that write DST (R108). -/
theorem State.writtenRegion_eq_dst {i : Instr} (h1 : i ≠ .bitstobyte) (h2 : i ≠ .parseheader)
    (h3 : i ≠ .embed) (s : State) : s.writtenRegion i = s.dstRegion := by
  cases i with
  | bitstobyte | parseheader | embed => contradiction
  | _ => rfl

theorem MemoryFrame.memoryUnchanged {s t : State} (h : MemoryFrame s t 0 0) :
    MemoryUnchanged s t :=
  fun b => h b (.inr b.zero_le)

/-! ## Success, from the body's completion -/

/-- Past the common checks, a body that finishes with results below 2^32 is the command's success (R104,
R106). -/
theorem exec_succeeds {i : Instr} {s : State} {m : Memory} {r0 r1 r2 : Nat}
    (hchecks : commonChecks i s = none) (hbody : commandBody i s = .finish m r0 r1 r2)
    (h0 : r0 < 2 ^ 32) (h1 : r1 < 2 ^ 32) (h2 : r2 < 2 ^ 32) :
    ∃ t, exec i s = .next t ∧ Succeeded s t r0 r1 r2 ∧ t.mem = m := by
  refine ⟨s.finish m r0 r1 r2, ?_, s.finish_succeeded m h0 h1 h2, rfl⟩
  rw [exec_eq, State.runCommand_none _ hchecks, hbody, State.complete]

/-- The success that writes nothing and returns no length but the one in RES1. -/
theorem exec_succeeds_unchanged {i : Instr} {s : State} {r1 : Nat}
    (hchecks : commonChecks i s = none) (hbody : commandBody i s = .finish s.mem 0 r1 0)
    (h1 : r1 < 2 ^ 32) :
    ∃ t, exec i s = .next t ∧ Succeeded s t 0 r1 0 ∧ MemoryUnchanged s t := by
  obtain ⟨t, ht, hs, hm⟩ := exec_succeeds hchecks hbody (by norm_num) h1 (by norm_num)
  exact ⟨t, ht, hs, fun b => by rw [hm]⟩

/-! ## Bodies on operands of length zero (R110) -/

@[simp] theorem Memory.readAll_zero (m : Memory) (a : Nat) : Memory.readAll m a 0 = [] := rfl

@[simp] theorem Memory.writeAll_nil (m : Memory) (a : Nat) : Memory.writeAll m a [] = m := rfl

/-- Fewer than 8 elements make no byte (R123). -/
theorem bitsToBytes_of_length_lt {b : BitSeq} (h : b.length < 8) : bitsToBytes b = [] := by
  rw [← List.length_eq_zero_iff, length_bitsToBytes]
  omega

theorem isBitSeq_readAll {m : Memory} {a n : Nat}
    (h : ∀ k < n, (Memory.read m (a + k)).toNat ≤ 1) :
    isBitSeq (Memory.readAll m a n) = true := by
  rw [isBitSeq_iff]
  intro c hc
  obtain ⟨k, hk, rfl⟩ := List.getElem_of_mem hc
  rw [Memory.getElem_readAll]
  exact h k (by simpa using hk)

theorem commandBody_bytestobits_empty {s : State} (h : s.srcLen = 0) :
    commandBody .bytestobits s = .finish s.mem 0 0 0 := by
  simp [commandBody, bodyBytestobits, h, bitCells]

theorem commandBody_extractlsb_empty {s : State} (h : s.srcLen = 0) :
    commandBody .extractlsb s = .finish s.mem 0 0 0 := by
  simp [commandBody, bodyExtractlsb, h, bitCells, extractLsb]

theorem commandBody_bitstobytes_short {s : State} (hlen : s.srcLen.toNat < 8)
    (hbits : isBitSeq (Memory.readAll s.mem s.srcAddr.toNat s.srcLen.toNat) = true) :
    commandBody .bitstobytes s = .finish s.mem 0 s.srcLen.toNat 0 := by
  simp [commandBody, bodyBitstobytes, hbits, bitsToBytes_of_length_lt, hlen,
    Nat.div_eq_of_lt, Nat.mod_eq_of_lt]

theorem commandBody_embed_empty {s : State} (h : s.srcLen = 0)
    (hlen : s.headerWidth ≤ s.bufLen.toNat) :
    commandBody .embed s =
      .finish (embedLoop s.payloadFrame s.bufAddr.toNat s.mem).1 s.headerWidth
        (embedLoop s.payloadFrame s.bufAddr.toNat s.mem).2 0 := by
  simp [commandBody, bodyEmbed, State.frameLength, h, hlen]

theorem commandBody_extract_empty {s : State} (hheader : s.bufHeader = 0)
    (hlen : s.headerWidth ≤ s.bufLen.toNat) :
    commandBody .extract s = .finish s.mem 0 0 0 := by
  simp [commandBody, bodyExtract, hheader, hlen.not_gt, extractLsb, bitsToBytes]

/-! ## The header of value 0 -/

/-- The header of an empty payload is the whole frame, all zeros (R161). -/
theorem State.payloadFrame_getElem_of_empty {s : State} (h : s.srcLen = 0) {i : Nat}
    (hi : i < s.payloadFrame.length) : s.payloadFrame[i] = false := by
  simp [State.payloadFrame, h, buildFrame, lengthHeaderBits]

theorem toNat_embedByte_mod_two (b : Byte) (bit : Bool) :
    (embedByte b bit).toNat % 2 = bitValue bit := by
  rw [toNat_embedByte]
  cases bit <;> simp [bitValue] <;> split <;> omega

theorem headerValue_eq_zero {h : BitSeq} (hz : ∀ b ∈ h, b = false) : headerValue h = 0 := by
  induction h with
  | nil => rfl
  | cons b bs ih =>
    obtain ⟨rfl, hbs⟩ := List.forall_mem_cons.1 hz
    simp [headerValue, bitValue, ih hbs]

/-- Even carrier bytes spell the header value 0 (R160). -/
theorem State.bufHeader_eq_zero {s : State}
    (h : ∀ i < s.headerWidth, byteAt s (s.bufAddr.toNat + i) % 2 = 0) : s.bufHeader = 0 := by
  refine headerValue_eq_zero fun b hb => ?_
  obtain ⟨i, hi, rfl⟩ := List.getElem_of_mem hb
  have hw : i < s.headerWidth := by simpa using hi
  rw [getElem_extractLsb, Memory.getElem_readAll, cellBit, h i hw]
  rfl

/-! ## Registers by offset -/

@[simp] theorem regAt_regOffset (r : RegName) : regAt (regOffset r) = some r := by cases r <;> rfl

theorem readOffset_regOffset (s : State) (r : RegName) :
    s.readOffset (regOffset r) = s.readReg r := by
  simp [State.readOffset]

/-- The table of R22 lists each register at its offset with its value. -/
theorem exists_of_mem_registerTable {s : State} {o : Nat} {x : Word}
    (h : (o, x) ∈ registerTable s) : ∃ r, (regOffset r).toNat = o ∧ s.readReg r = x := by
  simp only [registerTable, List.mem_cons, Prod.mk.injEq, List.not_mem_nil, or_false] at h
  rcases h with h | h | h | h | h | h | h | h | h | h | h | h | h | h | h | h <;>
    obtain ⟨rfl, rfl⟩ := h
  exacts [⟨.ctrl, rfl, rfl⟩, ⟨.cmd, rfl, rfl⟩, ⟨.status, rfl, rfl⟩, ⟨.arg, rfl, rfl⟩,
    ⟨.srcAddr, rfl, rfl⟩, ⟨.srcLen, rfl, rfl⟩, ⟨.bufAddr, rfl, rfl⟩, ⟨.bufLen, rfl, rfl⟩,
    ⟨.dstAddr, rfl, rfl⟩, ⟨.dstLen, rfl, rfl⟩, ⟨.res0, rfl, rfl⟩, ⟨.res1, rfl, rfl⟩,
    ⟨.res2, rfl, rfl⟩, ⟨.errReqLo, rfl, rfl⟩, ⟨.errReqHi, rfl, rfl⟩, ⟨.errAvail, rfl, rfl⟩]

theorem regOffset_lt (r : RegName) : (regOffset r).toNat < 0x40 := by cases r <;> decide

/-- No register lies at or past 0x40 (R38). -/
theorem regAt_of_ge {off : BitVec 8} (h : 0x40 ≤ off.toNat) : regAt off = none := by
  rw [Option.eq_none_iff_forall_ne_some]
  intro r hr
  have hlt := regOffset_lt r
  rw [← regOffset_of_regAt hr] at hlt
  omega

@[simp] theorem State.readOffset_takeAction (rest : List HostAction) (s : State) (off : BitVec 8) :
    (s.takeAction rest).readOffset off = s.readOffset off := by
  simp only [State.readOffset, State.readReg_takeAction]

theorem hostAct_regRead {off : BitVec 8} (h : off.toNat % 4 = 0) (s : State) :
    hostAct (.regRead 32 off) s = .next { s with readData := s.readOffset off } := by
  simp [hostAct, hostRegRead, regAccessWellFormed, accessWidthOk, accessAligned, h]

theorem hostAct_regWrite {off : BitVec 8} (h : off.toNat % 4 = 0) (v : Word) (s : State) :
    hostAct (.regWrite 32 off v) s = .next (s.writeOffset off v) := by
  simp [hostAct, hostRegWrite, regAccessWellFormed, accessWidthOk, accessAligned, h]

/-! ## Idle register writes (R103) -/

section
variable {s : State} (hidle : s.busy = false) (v : Word)
include hidle

theorem State.writeOffset_register (r : RegName) :
    s.writeOffset (regOffset r) v = s.storeReg r v := by
  simp [State.writeOffset, hidle]

/-- `STATUS`, the results, the error record and the reserved offsets ignore a write (R38, R39). -/
theorem State.writeOffset_ignored {off : BitVec 8} (h : off = 0x08 ∨ 0x28 ≤ off.toNat) :
    s.writeOffset off v = s := by
  cases hr : regAt off with
  | none => simp [State.writeOffset, hidle, hr]
  | some r =>
    obtain rfl := regOffset_of_regAt hr
    rw [State.writeOffset_register hidle]
    cases r with
    | status | res0 | res1 | res2 | errReqLo | errReqHi | errAvail => rfl
    | _ => exact absurd h (by decide)

end

/-! ## What the pending command owns (R74, R102) -/

theorem ownedRegions_of_decode {s : State} (hbusy : s.busy = true) {i : Instr}
    (h : decode s.cmd = .ok i) : s.ownedRegions = regionsOf i s := by
  rw [State.ownedRegions, if_pos hbusy, h]

theorem owned_iff {s : State} {a : Nat} : s.owned a = true ↔ ∃ r ∈ s.ownedRegions, r.holds a := by
  simp [State.owned]

theorem regionsOf_accept (i : Instr) (v : Word) (s : State) :
    regionsOf i (s.accept v) = regionsOf i s := by
  cases i <;> rfl

theorem ownedRegions_wbusy (b : Bool) (s : State) :
    State.ownedRegions { s with status := setStatusWbusy b s.status } = s.ownedRegions := by
  simp only [State.ownedRegions, State.busy, statusBusy_wbusy]
  rfl

/-- While busy no host action but a reset ends the command or changes what it owns (R74, R103). -/
theorem hostAct_keeps_owned {a : HostAction} {s t : State} (hbusy : s.busy = true)
    (hne : a ≠ .assertReset) (h : hostAct a s = .next t) :
    t.busy = true ∧ t.ownedRegions = s.ownedRegions := by
  rcases hostAct_cases h with
    ⟨f, rfl⟩ | ⟨d, q, rfl⟩ | ⟨off, v, -, rfl⟩ | ⟨b, v, -, -, -, rfl⟩ | ⟨rfl, -⟩
  · exact ⟨hbusy, rfl⟩
  · exact ⟨hbusy, rfl⟩
  · rw [State.writeOffset_busy hbusy]
    exact ⟨(statusBusy_wbusy true s.status).trans hbusy, ownedRegions_wbusy true s⟩
  · exact ⟨hbusy, rfl⟩
  · exact absurd rfl hne

/-! ## The statements -/

/-- Settles O8: every command ends in one of the two completions. -/
theorem everyCommandCompletes : Obligations.EveryCommandCompletes := by
  intro i s
  have h := exec_eq i s
  obtain ⟨c, hc⟩ := exec_status h
  refine ⟨_, h, exec_frame h, ?_⟩
  simp [State.busy, hc]

/-- Settles O29: a command with an error code has raised it. -/
theorem failedCommandWritesNothing : Obligations.FailedCommandWritesNothing := by
  intro i s t h hcode
  obtain ⟨e, rfl⟩ := exec_eq_raise h hcode
  refine ⟨s.raise_mem e, s.raise_res0 e, s.raise_res1 e, s.raise_res2 e, fun hrec => ?_⟩
  rw [State.raise_status, statusErr_complete] at hrec
  exact raise_errReq_of_none (errorLengths_eq_none hrec) s

/-- Settles O30: the written region of R108 is empty, BUF or DST. -/
theorem commandWritesOnlyItsRegion : Obligations.CommandWritesOnlyItsRegion := by
  intro i s t hwf h
  have hframe := exec_memoryFrame hwf h
  refine ⟨?_, ?_, fun h1 h2 h3 => ?_⟩
  · rintro (rfl | rfl) <;> exact hframe.memoryUnchanged
  · rintro rfl
    exact hframe
  · rwa [State.writtenRegion_eq_dst h1 h2 h3] at hframe

/-- Settles O32: each body is evaluated on its zero-length operand; the header of an empty payload is all
zeros, and even carrier bytes are the header of value 0. -/
theorem zeroLengthOperands : Obligations.ZeroLengthOperands := by
  intro s hwf
  have hw : s.headerWidth < 2 ^ 32 := s.headerWidth_le.trans_lt (by norm_num)
  refine ⟨?_, ?_, ?_, ?_⟩
  · rintro i (rfl | rfl) hchecks hsrc
    · exact exec_succeeds_unchanged hchecks (commandBody_bytestobits_empty hsrc) (by norm_num)
    · exact exec_succeeds_unchanged hchecks (commandBody_extractlsb_empty hsrc) (by norm_num)
  · intro hchecks hlen hbits
    exact exec_succeeds_unchanged hchecks
      (commandBody_bitstobytes_short hlen (isBitSeq_readAll hbits)) s.srcLen.isLt
  · intro hchecks hsrc hlen
    have hlength : s.payloadFrame.length = s.headerWidth := by
      simp [State.frameLength, hsrc]
    have hcount := embedLoop_count_le s.payloadFrame s.bufAddr.toNat s.mem
    obtain ⟨t, ht, hs, hm⟩ := exec_succeeds hchecks (commandBody_embed_empty hsrc hlen) hw
      (by omega) (by norm_num)
    refine ⟨t, _, ht, hs, fun i hi => ?_⟩
    have hi' : i < s.payloadFrame.length := hlength ▸ hi
    rw [byteAt, hm, read_embedLoop_inside hwf hi', toNat_embedByte_mod_two,
      State.payloadFrame_getElem_of_empty hsrc]
    rfl
  · intro hchecks hlen heven
    exact exec_succeeds_unchanged hchecks
      (commandBody_extract_empty (State.bufHeader_eq_zero heven) hlen) (by norm_num)

/-- Settles O34: the read returns the register at its offset, and there is none from 0x40 on. -/
theorem registerReadReturnsValue : Obligations.RegisterReadReturnsValue := by
  intro s off rest hturn halign
  refine ⟨s.readOffset off, ?_, ?_, fun hoff => ?_⟩
  · rw [hturn.step_eq, hostAct_regRead halign, State.readOffset_takeAction]
    rfl
  · rintro o x hmem hoff
    obtain ⟨r, rfl, rfl⟩ := exists_of_mem_registerTable hmem
    rw [BitVec.eq_of_toNat_eq hoff, readOffset_regOffset]
  · rw [State.readOffset, regAt_of_ge hoff]

/-- Settles O35: the accept makes the word the pending command, which owns its regions; of the other host
actions a register write alone could change a register, and while busy it is dropped. -/
theorem commandAccept : Obligations.CommandAccept := by
  constructor
  · intro s rest v hturn hidle
    have hstep := hturn.step_eq.trans (hostAct_cmdWrite_idle (s := s.takeAction rest) hidle v)
    have hbusy : ((s.takeAction rest).accept v).busy = true := statusBusy_accept s.status
    refine ⟨_, hstep, rfl, hbusy, statusDone_accept _, statusWbusy_accept _, statusErr_accept _,
      reserved_accept _, fun i hi a => ?_, fun hillegal a => ?_⟩
    · rw [owned_iff, ownedRegions_of_decode hbusy hi, regionsOf_accept, regionsOf_takeAction]
    · have hnone : ((s.takeAction rest).accept v).ownedRegions = [] := ownedRegions_of_illegal hillegal
      rw [State.owned, hnone, List.any_nil]
  · intro s t h rest hbusy hturn hne hstep
    obtain ⟨hb, ho⟩ := hostAct_keeps_owned (s := s.takeAction rest) hbusy hne
      (hturn.step_eq.symm.trans hstep)
    refine ⟨hb, fun a => ?_⟩
    rw [State.owned, ho, ← State.owned, owned_takeAction]

/-- Settles O36: while idle the write reaches the register at its offset or is ignored, and while busy it
is dropped. -/
theorem otherRegisterWrites : Obligations.OtherRegisterWrites := by
  intro s off rest v hturn halign
  have hstep := hturn.step_eq.trans (hostAct_regWrite halign v (s.takeAction rest))
  refine ⟨fun hidle => ?_, fun hbusy => ?_⟩
  · have hreg (r : RegName) (hoff : off = regOffset r) :
        step s = .next ((s.takeAction rest).storeReg r v) := by
      rw [hstep, hoff, State.writeOffset_register (s := s.takeAction rest) hidle]
    refine ⟨fun hoff => ⟨v &&& 1, ?_, hreg .ctrl hoff⟩, hreg .arg, hreg .srcAddr, hreg .srcLen,
      hreg .bufAddr, hreg .bufLen, hreg .dstAddr, hreg .dstLen, fun hoff => ?_⟩
    · exact (BitVec.toNat_and v 1).trans (Nat.and_one_is_mod v.toNat)
    · rw [hstep, State.writeOffset_ignored (s := s.takeAction rest) hidle v hoff]
  · rw [State.writeOffset_busy (s := s.takeAction rest) hbusy] at hstep
    exact ⟨_, hstep, rfl, statusWbusy_wbusy _ _, (statusBusy_wbusy _ _).trans hbusy,
      statusDone_wbusy _ _, statusErr_wbusy _ _, reserved_wbusy _ _⟩

/-- Settles O5: the core step is `exec` of the word `CMD` decodes to. -/
theorem stepRunsDecodedCommand : Obligations.StepRunsDecodedCommand :=
  fun _ _ hturn h => hturn.step_eq.trans (coreStep_of_decode h)

end Sys2Proof.Machine

/-! The BitPacking unit of 41_bitpacking.md: the laws of the functions on bits (O15, O16), how a
command's checks and its success make its rule, and the rules of the unit's six commands (O9 to O14). -/

namespace Sys2Proof.Machine

open Sys2Proof

/-! ## The header value (R125, R160) -/

/-- The big-endian sum of R160. -/
theorem headerValue_eq_sum (h : BitSeq) :
    headerValue h =
      ∑ i ∈ Finset.range h.length, bitValue (h.getD i false) * 2 ^ (h.length - 1 - i) := by
  induction h with
  | nil => rfl
  | cons b bs ih =>
    rw [headerValue, ih, List.length_cons, Finset.sum_range_succ', add_comm]
    congr 1
    refine Finset.sum_congr rfl fun i _ => ?_
    rw [List.getD_cons_succ, show bs.length + 1 - 1 - (i + 1) = bs.length - 1 - i by omega]

/-- The first element of a header is its most significant bit, and the others are the header of one
bit less (R125). -/
theorem lengthHeaderBits_succ (n w : Nat) :
    lengthHeaderBits n (w + 1) = (n / 2 ^ w % 2 == 1) :: lengthHeaderBits n w := by
  simp only [lengthHeaderBits, List.range_succ_eq_map, List.map_cons, List.map_map]
  congr 1
  refine List.map_congr_left fun i _ => ?_
  rw [Function.comp_apply, show w + 1 - 1 - i.succ = w - 1 - i by omega]

/-- A header of `w` bits holds the number modulo `2^w` (R125). -/
theorem headerValue_lengthHeaderBits (n w : Nat) :
    headerValue (lengthHeaderBits n w) = n % 2 ^ w := by
  induction w with
  | zero => rw [pow_zero, Nat.mod_one]; rfl
  | succ w ih =>
    rw [lengthHeaderBits_succ, headerValue, bitValue_mod_two, length_lengthHeaderBits, ih,
      Nat.mod_pow_succ, add_comm, mul_comm]

/-- The number that the parities of a run of bytes spell (R160, R165). -/
theorem headerValue_cellBit_readAll (m : Memory) (a n : Nat) :
    headerValue ((Memory.readAll m a n).map cellBit) =
      ∑ k ∈ Finset.range n, (Memory.read m (a + k)).toNat % 2 * 2 ^ (n - 1 - k) := by
  rw [headerValue_eq_sum, List.length_map, Memory.length_readAll]
  refine Finset.sum_congr rfl fun k hk => ?_
  have hlt : k < n := Finset.mem_range.1 hk
  rw [List.getD_eq_getElem _ _ (by simpa using hlt), List.getElem_map, Memory.getElem_readAll,
    bitValue_cellBit]

/-! ## One byte and its bits (R120, R121) -/

theorem toNat_bitsToByte {s : BitSeq} (h : s.length = 8) :
    (bitsToByte s).toNat = headerValue s := by
  have hlt : headerValue s < 2 ^ 8 := h ▸ headerValue_lt s
  rw [bitsToByte, BitVec.toNat_ofNat, Nat.mod_eq_of_lt hlt]

theorem bitsToByte_byteToBits (b : Byte) : bitsToByte (byteToBits b) = b := by
  apply BitVec.eq_of_toNat_eq
  rw [toNat_bitsToByte (length_byteToBits b), byteToBits_eq, headerValue_lengthHeaderBits,
    Nat.mod_eq_of_lt b.isLt]

/-- The byte that 8 cells of 0 or 1 in memory make (R121). -/
theorem toNat_bitsToByte_readAll {m : Memory} {a : Nat}
    (h : ∀ k < 8, (Memory.read m (a + k)).toNat ≤ 1) :
    (bitsToByte ((Memory.readAll m a 8).map cellBit)).toNat =
      ∑ k ∈ Finset.range 8, (Memory.read m (a + k)).toNat * 2 ^ (7 - k) := by
  rw [toNat_bitsToByte (by simp), headerValue_cellBit_readAll]
  refine Finset.sum_congr rfl fun k hk => ?_
  have hcell := h k (Finset.mem_range.1 hk)
  rw [Nat.mod_eq_of_lt (by omega)]

theorem isBitSeq_readAll_iff {m : Memory} {a n : Nat} :
    isBitSeq (Memory.readAll m a n) = true ↔ ∀ k < n, (Memory.read m (a + k)).toNat ≤ 1 := by
  refine ⟨fun h k hk => ?_, isBitSeq_readAll⟩
  have hlen : k < (Memory.readAll m a n).length := by simpa using hk
  simpa using (isBitSeq_iff _).1 h _ (List.getElem_mem hlen)

/-- The bad-bit check of the commands, in numbers (R126). -/
theorem not_isBitSeq_readAll_iff {m : Memory} {a n : Nat} :
    (¬ ∀ k < n, (Memory.read m (a + k)).toNat ≤ 1) ↔ (!isBitSeq (Memory.readAll m a n)) = true := by
  rw [← isBitSeq_readAll_iff, Bool.not_eq_true, Bool.not_eq_true']

/-! ## Byte sequences and their bits (R122, R123) -/

/-- Element `8j + i` is element `i` of byte `j` (R122). -/
theorem getElem?_bytesToBits (bytes : List Byte) (j : Nat) {i : Nat} (hi : i < 8) :
    (bytesToBits bytes)[8 * j + i]? = bytes[j]?.bind fun b => (byteToBits b)[i]? := by
  induction bytes generalizing j with
  | nil => simp
  | cons b bs ih =>
    rw [bytesToBits_cons]
    cases j with
    | zero =>
      rw [Nat.mul_zero, Nat.zero_add, List.getElem?_append_left (by simpa using hi)]
      rfl
    | succ j =>
      rw [List.getElem?_append_right (by simp; omega), length_byteToBits,
        show 8 * (j + 1) + i - 8 = 8 * j + i by omega, ih j, List.getElem?_cons_succ]

theorem bitValue_bytesToBits {bytes : List Byte} {j i : Nat} (hi : i < 8) (hj : j < bytes.length)
    (h : 8 * j + i < (bytesToBits bytes).length) :
    bitValue (bytesToBits bytes)[8 * j + i] = bytes[j].toNat / 2 ^ (7 - i) % 2 := by
  have hbit : i < (byteToBits bytes[j]).length := by simpa using hi
  have helem : (bytesToBits bytes)[8 * j + i] = (byteToBits bytes[j])[i] := by
    rw [← Option.some_inj, ← List.getElem?_eq_getElem, getElem?_bytesToBits bytes j hi,
      List.getElem?_eq_getElem hj, Option.bind_some, List.getElem?_eq_getElem hbit]
  rw [helem, bitValue_byteToBits]

/-- The first 8 elements make the first byte (R123). -/
theorem bitsToBytes_append_of_length_eq {g : BitSeq} (h : g.length = 8) (s : BitSeq) :
    bitsToBytes (g ++ s) = bitsToByte g :: bitsToBytes s := by
  have hlen : (g ++ s).length / 8 = s.length / 8 + 1 := by
    rw [List.length_append]
    omega
  simp only [bitsToBytes, hlen, List.range_succ_eq_map, List.map_cons, List.map_map]
  congr 1
  · rw [Nat.mul_zero, List.drop_zero, List.take_left' h]
  · refine List.map_congr_left fun j _ => ?_
    rw [Function.comp_apply, show 8 * j.succ = g.length + 8 * j by omega, List.drop_append,
      List.drop_eq_nil_of_le (by omega), List.nil_append, Nat.add_sub_cancel_left]

theorem bitsToBytes_bytesToBits (bytes : List Byte) : bitsToBytes (bytesToBits bytes) = bytes := by
  induction bytes with
  | nil => rfl
  | cons b bs ih =>
    rw [bytesToBits_cons, bitsToBytes_append_of_length_eq (length_byteToBits b),
      bitsToByte_byteToBits, ih]

/-- A trailing partial group is dropped (R123). -/
theorem bitsToBytes_append_of_length_lt {s u : BitSeq} (hs : s.length % 8 = 0) (hu : u.length < 8) :
    bitsToBytes (s ++ u) = bitsToBytes s := by
  have hlen : (s ++ u).length / 8 = s.length / 8 := by
    rw [List.length_append]
    omega
  simp only [bitsToBytes, hlen]
  refine List.map_congr_left fun j hj => ?_
  have hgroup : 8 * j + 8 ≤ s.length := by
    have := List.mem_range.1 hj
    omega
  rw [List.drop_append_of_le_length (by omega),
    List.take_append_of_le_length (by rw [List.length_drop]; omega)]

/-- A cell of a BitSequence is 0x00 or 0x01 (R12). -/
theorem eq_zero_or_one_of_mem_bitCells {s : BitSeq} {c : Byte} (h : c ∈ bitCells s) :
    c = 0x00 ∨ c = 0x01 := by
  obtain ⟨b, -, rfl⟩ := List.mem_map.1 h
  cases b
  · exact .inl rfl
  · exact .inr rfl

/-! ## How a command meets its rule -/

/-- Ending state `s` as the completion says leaves a state with property `P`, if the length the
completion records, where it is an error that records one, is one a command can require (R40). -/
def Completion.Meets (s : State) (P : State → Prop) (c : Completion) : Prop :=
  c.ReqBounded → P (s.complete c)

/-- A check of a body: `e` is raised when the check fails, and the rest of the body is met when it
does not. `p'` is the spec's form of the failing condition. -/
theorem Completion.Meets.check {s : State} {P : State → Prop} {p p' : Prop} [Decidable p]
    [Decidable p'] {e : CmdError} {code : BitVec 8} {lengths : Option (Nat × Word)} {c : Completion}
    (hp : p' ↔ p) (hc : ¬ p' → c.Meets s P) (hcode : errorCode e = code := by rfl)
    (hlengths : errorLengths e = lengths := by rfl) :
    (if p then Completion.raise e else c).Meets s fun t =>
      if p' then Failed s t code lengths else P t := by
  subst hcode hlengths
  intro hreq
  by_cases h : p'
  · rw [if_pos (hp.1 h)] at hreq ⊢
    rw [if_pos h]
    exact s.raise_failed e fun req avail he => (hreq e rfl req avail he).trans_lt (by norm_num)
  · rw [if_neg (mt hp.2 h)] at hreq ⊢
    rw [if_neg h]
    exact hc h hreq

/-- A success that leaves memory as it is (R106). -/
theorem Completion.Meets.finish_unchanged {s : State} {r0 r1 r2 n : Nat} (hn : r0 = n)
    (h0 : r0 < 2 ^ 32) (h1 : r1 < 2 ^ 32) (h2 : r2 < 2 ^ 32) :
    (Completion.finish s.mem r0 r1 r2).Meets s fun t =>
      Succeeded s t n r1 r2 ∧ MemoryUnchanged s t :=
  fun _ => ⟨hn ▸ s.finish_succeeded s.mem h0 h1 h2, fun _ => rfl⟩

/-- A success that writes a byte sequence (R106, R12): every other byte is as before, and `Q` may be
shown of any state in which the sequence stands at its address. -/
theorem Completion.Meets.finish_writeAll {s : State} (hwf : Memory.wf s.mem) {a n r0 r1 r2 : Nat}
    {bytes : List Byte} (hn : bytes.length = n) {Q : State → Prop}
    (h0 : r0 < 2 ^ 32) (h1 : r1 < 2 ^ 32) (h2 : r2 < 2 ^ 32)
    (hQ : ∀ t, (∀ i (h : i < bytes.length), byteAt t (a + i) = bytes[i].toNat) → Q t) :
    (Completion.finish (Memory.writeAll s.mem a bytes) r0 r1 r2).Meets s fun t =>
      Succeeded s t r0 r1 r2 ∧ MemoryFrame s t a n ∧ Q t := by
  intro _
  refine ⟨s.finish_succeeded _ h0 h1 h2, fun b hb => ?_, hQ _ fun i hi => ?_⟩
  · exact Memory.read_writeAll_outside hwf (hn ▸ hb)
  · exact congrArg BitVec.toNat (Memory.read_writeAll_inside hwf hi)

section
variable {i : Instr} {s : State} {P : State → Prop}

theorem runCommand_failed_of_commonChecks {e : CmdError} (h : commonChecks i s = some e)
    (c : Completion) : Failed s (s.runCommand i c) (errorCode e) none := by
  have hnone := commonChecks_errorLengths h
  rw [State.runCommand_some c h, ← hnone]
  exact s.raise_failed e (by simp [hnone])

theorem runCommand_meets_of_commonChecks (h : commonChecks i s = none)
    (hbody : (commandBody i s).Meets s P) : P (s.runCommand i (commandBody i s)) := by
  rw [State.runCommand_none _ h]
  exact hbody (commandBody_reqBounded i s)

/-- The rule of a command with one region and no overlap check (R104, R105). -/
theorem exec_meets_one {a l : Word} (hregions : regionsOf i s = [⟨a.toNat, l.toNat⟩])
    (hpairs : noOverlapOf i s = []) (hbody : (commandBody i s).Meets s P) :
    ∃ t, exec i s = .next t ∧ if OutOfRange s a l then Failed s t 0x04 none else P t := by
  refine ⟨_, exec_eq i s, ?_⟩
  rcases commonChecks_eq i s with ⟨hc, hr⟩ | ⟨hr, ⟨-, ho⟩ | ⟨hc, -⟩⟩
  · rw [if_pos (by simpa [hregions] using hr)]
    exact runCommand_failed_of_commonChecks hc _
  · simp [hpairs] at ho
  · rw [if_neg (by simpa [hregions] using hr)]
    exact runCommand_meets_of_commonChecks hc hbody

/-- The rule of a command with two regions that must not overlap (R104, R105). -/
theorem exec_meets_two {a l a' l' : Word}
    (hregions : regionsOf i s = [⟨a.toNat, l.toNat⟩, ⟨a'.toNat, l'.toNat⟩])
    (hpairs : noOverlapOf i s = [(⟨a.toNat, l.toNat⟩, ⟨a'.toNat, l'.toNat⟩)])
    (hbody : (commandBody i s).Meets s P) :
    ∃ t, exec i s = .next t ∧
      if OutOfRange s a l ∨ OutOfRange s a' l' then Failed s t 0x04 none
      else if Overlap a l a' l' then Failed s t 0x05 none else P t := by
  refine ⟨_, exec_eq i s, ?_⟩
  rcases commonChecks_eq i s with ⟨hc, hr⟩ | ⟨hr, ho⟩
  · rw [if_pos (by simpa [hregions] using hr)]
    exact runCommand_failed_of_commonChecks hc _
  · rw [if_neg (by simpa [hregions, not_or] using hr)]
    rcases ho with ⟨hc, ho⟩ | ⟨hc, ho⟩
    · rw [if_pos (by simpa [hpairs] using ho)]
      exact runCommand_failed_of_commonChecks hc _
    · rw [if_neg (by simpa [hpairs] using ho)]
      exact runCommand_meets_of_commonChecks hc hbody

end

/-! ## The statements -/

/-- Settles O15: the laws of the functions on bits, each proved of its function. -/
theorem bitFunctionLaws : Obligations.BitFunctionLaws := by
  refine ⟨bitsToByte_byteToBits, bitsToBytes_bytesToBits, length_bitsToBytes,
    fun _ _ => bitsToBytes_append_of_length_lt, fun n width hn => ?_,
    fun b bytes n width c hc => ?_⟩
  · rw [headerValue_lengthHeaderBits, Nat.mod_eq_of_lt hn]
  · simp only [List.mem_append, or_assoc] at hc
    rcases hc with hc | hc | hc | hc <;> exact eq_zero_or_one_of_mem_bitCells hc

/-- Settles O16: each byte contributes its 8 elements in turn. -/
theorem bytesToBitsElements : Obligations.BytesToBitsElements :=
  fun bytes => ⟨length_bytesToBits bytes, fun j _ _ hi => getElem?_bytesToBits bytes j hi⟩

/-- Settles O9: past the checks ARG is a byte, and its 8 bits are written. -/
theorem bytetobitsMeetsItsRule : Obligations.BytetobitsMeetsItsRule := by
  refine ⟨decode_encode .bytetobits, fun s hwf => ?_⟩
  refine exec_meets_one rfl rfl (.check .rfl fun harg => .check .rfl fun _ => ?_)
  refine .finish_writeAll hwf (by simp) (by norm_num) (by norm_num) (by norm_num)
    fun t ht i hi => ?_
  have hbyte : (BitVec.ofNat 8 s.arg.toNat).toNat = s.arg.toNat :=
    Nat.mod_eq_of_lt (by omega)
  rw [ht i (by simpa using hi), getElem_bitCells, toNat_bitCell, bitValue_byteToBits, hbyte]

/-- Settles O10: past the checks the 8 cells of SRC are the byte's bits. -/
theorem bitstobyteMeetsItsRule : Obligations.BitstobyteMeetsItsRule := by
  refine ⟨decode_encode .bitstobyte, fun s => ?_⟩
  refine exec_meets_one rfl rfl (.check .rfl fun _ =>
    .check not_isBitSeq_readAll_iff fun hbits => ?_)
  exact .finish_unchanged (toNat_bitsToByte_readAll (not_not.1 hbits)) (by omega) (by norm_num)
    (by norm_num)

/-- Settles O11: past the checks the bits of the bytes of SRC are written. -/
theorem bytestobitsMeetsItsRule : Obligations.BytestobitsMeetsItsRule := by
  refine ⟨decode_encode .bytestobits, fun s hwf => ?_⟩
  refine exec_meets_two rfl rfl (.check .rfl fun hlen => ?_)
  have hdst := s.dstLen.isLt
  refine .finish_writeAll hwf (by simp) (by omega) (by norm_num) (by norm_num)
    fun t ht j hj i hi => ?_
  rw [ht (8 * j + i) (by simp; omega), getElem_bitCells, toNat_bitCell,
    bitValue_bytesToBits hi (by simpa using hj), Memory.getElem_readAll]

/-- Settles O12: past the checks each 8 cells of SRC in turn make a byte of DST. -/
theorem bitstobytesMeetsItsRule : Obligations.BitstobytesMeetsItsRule := by
  refine ⟨decode_encode .bitstobytes, fun s hwf => ?_⟩
  refine exec_meets_two rfl rfl (.check .rfl fun _ =>
    .check not_isBitSeq_readAll_iff fun hbits => ?_)
  have hsrc := s.srcLen.isLt
  refine .finish_writeAll hwf (by simp) (by omega) (by omega) (by norm_num) fun t ht j hj => ?_
  have hgroup : ∀ i < 8, (Memory.read s.mem (s.srcAddr.toNat + 8 * j + i)).toNat ≤ 1 := by
    intro i hi
    rw [Nat.add_assoc]
    exact not_not.1 hbits (8 * j + i) (by omega)
  rw [ht j (by simpa using hj), getElem_bitsToBytes, ← List.map_drop, ← List.map_take,
    Memory.drop_readAll, Memory.take_readAll _ _ (by omega), toNat_bitsToByte_readAll hgroup]
  simp only [Nat.add_assoc]

/-- Settles O13: past the checks the parities of the bytes of SRC are written. -/
theorem extractlsbMeetsItsRule : Obligations.ExtractlsbMeetsItsRule := by
  refine ⟨decode_encode .extractlsb, fun s hwf => ?_⟩
  refine exec_meets_two rfl rfl (.check .rfl fun _ => ?_)
  refine .finish_writeAll hwf (by simp) s.srcLen.isLt (by norm_num) (by norm_num)
    fun t ht k hk => ?_
  rw [ht k (by simpa using hk), getElem_bitCells, toNat_bitCell, getElem_extractLsb,
    bitValue_cellBit, Memory.getElem_readAll]

/-- Settles O14: past the checks the header of ARG is written. -/
theorem lenhdrbitsMeetsItsRule : Obligations.LenhdrbitsMeetsItsRule := by
  refine ⟨decode_encode .lenhdrbits, fun s hwf => ?_⟩
  refine exec_meets_one rfl rfl (.check .rfl fun _ => .check .rfl fun _ => ?_)
  have hw := s.headerWidth_le
  refine .finish_writeAll hwf (by simp) (by omega) (by norm_num) (by norm_num)
    fun t ht i hi => ?_
  rw [ht i (by simpa using hi), getElem_bitCells, toNat_bitCell, bitValue_lengthHeaderBits]

end Sys2Proof.Machine

/-! The FrameCodec unit of 42_framecodec.md: the header value and the header are inverse (O17), the
elements of a frame (O18), which payloads have no frame (O19), and the rules of the unit's two commands
(O20, O21). -/

namespace Sys2Proof.Machine

open Sys2Proof

/-! ## The header and its value (R160) -/

/-- Two headers of one length with one value are the same: the value's quotient by the first element's
weight is the first element, and its remainder the value of the others. -/
theorem eq_of_headerValue_eq {h g : BitSeq} (hlen : h.length = g.length)
    (hval : headerValue h = headerValue g) : h = g := by
  induction h generalizing g with
  | nil => exact (List.length_eq_zero_iff.1 hlen.symm).symm
  | cons b bs ih =>
    obtain _ | ⟨c, cs⟩ := g
    · cases hlen
    rw [List.length_cons, List.length_cons, Nat.add_right_cancel_iff] at hlen
    have hbs := headerValue_lt bs
    have hcs := headerValue_lt cs
    rw [headerValue, headerValue, hlen] at hval
    rw [hlen] at hbs
    have hfirst : bitValue b = bitValue c := by
      have hdiv := congrArg (· / 2 ^ cs.length) hval
      simpa [mul_comm, Nat.mul_add_div, Nat.div_eq_of_lt, hbs, hcs] using hdiv
    have hrest : headerValue bs = headerValue cs := by
      rwa [hfirst, Nat.add_left_cancel_iff] at hval
    rw [bitValue_inj hfirst, ih hlen hrest]

/-- The header of a header's value is that header (R160). -/
theorem lengthHeaderBits_headerValue (h : BitSeq) :
    lengthHeaderBits (headerValue h) h.length = h := by
  refine eq_of_headerValue_eq (length_lengthHeaderBits _ _) ?_
  rw [headerValue_lengthHeaderBits, Nat.mod_eq_of_lt (headerValue_lt h)]

/-- `L` as the number that the carrier's parities spell (R165). -/
theorem State.bufHeader_eq_parityNumber (s : State) :
    s.bufHeader = parityNumber s s.bufAddr.toNat s.headerWidth :=
  headerValue_cellBit_readAll s.mem s.bufAddr.toNat s.headerWidth

/-! ## The elements of a frame (R161) -/

section
variable {payload : List Byte} {w i : Nat}

/-- The first `w` elements are the header. -/
theorem bitValue_buildFrame_header (hi : i < w) (h : i < (buildFrame payload w).length) :
    bitValue (buildFrame payload w)[i] = bitOf (8 * payload.length) (w - 1 - i) := by
  simp only [buildFrame]
  rw [List.getElem_append_left (by simpa using hi), bitValue_lengthHeaderBits]

/-- After the header come the 8 bits of each payload byte in turn. -/
theorem bitValue_buildFrame_payload {j : Nat} (hi : i < 8) (hj : j < payload.length)
    (h : w + (8 * j + i) < (buildFrame payload w).length) :
    bitValue (buildFrame payload w)[w + (8 * j + i)] = bitOf payload[j].toNat (7 - i) := by
  simp only [buildFrame]
  rw [List.getElem_append_right (by simp)]
  simp only [length_lengthHeaderBits, Nat.add_sub_cancel_left]
  exact bitValue_bytesToBits hi hj _

end

/-- The frame of the payload in SRC, element by element. -/
theorem State.bitValue_payloadFrame (s : State) {i : Nat} (h : i < s.payloadFrame.length) :
    bitValue s.payloadFrame[i] = frameElement s i := by
  have hlen : i < s.headerWidth + 8 * s.srcLen.toNat := by simpa [State.frameLength] using h
  simp only [frameElement, State.payloadFrame]
  by_cases hi : i < s.headerWidth
  · rw [if_pos hi, bitValue_buildFrame_header hi, Memory.length_readAll]
  · obtain ⟨j, r, hr, rfl⟩ : ∃ j r, r < 8 ∧ i = s.headerWidth + (8 * j + r) :=
      ⟨(i - s.headerWidth) / 8, (i - s.headerWidth) % 8, by omega, by omega⟩
    have hdiv : (8 * j + r) / 8 = j := by omega
    have hmod : (8 * j + r) % 8 = r := by omega
    rw [if_neg hi, Nat.add_sub_cancel_left, hdiv, hmod,
      bitValue_buildFrame_payload hr (by simp; omega), Memory.getElem_readAll]

/-! ## The payloads that have no frame (R162) -/

section
variable {s : State}

@[simp] theorem statusErr_complete_raise (e : CmdError) :
    statusErr (s.complete (.raise e)).status = errorCode e := by
  simp [State.complete]

@[simp] theorem statusErr_complete_finish (m : Memory) (r0 r1 r2 : Nat) :
    statusErr (s.complete (.finish m r0 r1 r2)).status = 0x00 := by
  simp [State.complete]

/-- A check's error is the answer exactly when the check fails, if the rest of the body ends with
another code. -/
theorem statusErr_complete_check_iff {p : Prop} [Decidable p] {e : CmdError} {c : Completion}
    (hc : statusErr (s.complete c).status ≠ errorCode e) :
    statusErr (s.complete (if p then .raise e else c)).status = errorCode e ↔ p := by
  by_cases h : p
  · simp [h]
  · simp [h, hc]

end

/-- Past the common checks, E_HDR_OVF is the answer to a payload whose bit length the header cannot
hold (R163, R181). -/
theorem statusErr_eq_hdrOvf_iff {s t : State} {i : Instr} (hi : i = .buildframe ∨ i = .embed)
    (hchecks : commonChecks i s = none) (h : exec i s = .next t) :
    statusErr t.status = 0x08 ↔ 2 ^ s.headerWidth ≤ 8 * s.srcLen.toNat := by
  rw [exec_eq, State.runCommand_none _ hchecks] at h
  cases h
  rcases hi with rfl | rfl <;>
    exact statusErr_complete_check_iff (e := .hdrOvf) (by split <;> simp [errorCode])

/-! ## The statements -/

/-- Settles O17: a header of `width` bits and a number below `2^width` determine each other. -/
theorem headerValueIsBigEndian : Obligations.HeaderValueIsBigEndian := by
  refine fun h => ⟨headerValue_eq_sum h, headerValue_lt h, lengthHeaderBits_headerValue h,
    fun n hn => ?_⟩
  rw [headerValue_lengthHeaderBits, Nat.mod_eq_of_lt hn]

/-- Settles O18: a frame is the header and then the payload's bits. -/
theorem frameLayout : Obligations.FrameLayout := by
  intro payload w _
  refine ⟨length_buildFrame payload w, fun i hi => ?_, fun j hj i hi => ?_⟩
  · have h : i < (buildFrame payload w).length := by simp; omega
    rw [List.getElem?_eq_getElem h, Option.map_some, bitValue_buildFrame_header hi]
  · have h : w + (8 * j + i) < (buildFrame payload w).length := by simp; omega
    rw [Nat.add_assoc, List.getElem?_eq_getElem h, List.getElem?_eq_getElem hj, Option.map_some,
      Option.map_some, bitValue_buildFrame_payload hi hj]

/-- Settles O19: `2^w ≤ 8n` is `31 < n` for `w = 8` and `2^29 - 1 < n` for `w = 32`. -/
theorem headerRangeBounds : Obligations.HeaderRangeBounds := by
  intro s i t hi hchecks h
  rw [statusErr_eq_hdrOvf_iff hi hchecks h, s.headerWidth_eq]
  refine ⟨fun hw => ?_, fun hw => ?_⟩
  · rw [if_neg (by omega)]
    omega
  · rw [if_pos hw]
    omega

/-- Settles O20: past the checks the elements of the frame are written. -/
theorem buildframeMeetsItsRule : Obligations.BuildframeMeetsItsRule := by
  refine ⟨decode_encode .buildframe, fun s hwf => ?_⟩
  refine exec_meets_two rfl rfl (.check .rfl fun _ => .check .rfl fun hlen => ?_)
  have hdst := s.dstLen.isLt
  refine .finish_writeAll hwf (by simp [State.frameLength]) (by omega) (by omega) (by norm_num)
    fun t ht i hi => ?_
  rw [ht i (by simpa [State.frameLength] using hi), getElem_bitCells, toNat_bitCell,
    s.bitValue_payloadFrame]

/-- Settles O21: past the checks `L` is read from the carrier, and nothing is written. -/
theorem parseheaderMeetsItsRule : Obligations.ParseheaderMeetsItsRule := by
  refine ⟨decode_encode .parseheader, fun s => ?_⟩
  refine exec_meets_one rfl rfl (.check .rfl fun _ => ?_)
  have hbuf := s.bufLen.isLt
  exact .finish_unchanged s.bufHeader_eq_parityNumber
    (s.bufHeader_lt.trans_le s.two_pow_headerWidth_le) (Nat.mod_lt _ (by norm_num)) (by omega)

end Sys2Proof.Machine

/-! The Embedder of 43_embedder.md: the elements of `embedBits` (O22), what the loop of EMBED counts
and leaves in the carrier, and the rules of the command (O23 to O25). -/

namespace Sys2Proof.Machine

open Sys2Proof

/-! ## The embedding function (R180) -/

@[simp] theorem length_embedBits (carrier : List Byte) (frame : BitSeq) :
    (embedBits carrier frame).length = carrier.length := by
  induction carrier generalizing frame with
  | nil => cases frame <;> rfl
  | cons b bs ih =>
    cases frame with
    | nil => rfl
    | cons f fs => rw [embedBits, List.length_cons, ih, List.length_cons]

/-- A carrier byte holds the frame bit of its index, if there is one. -/
theorem getElem?_embedBits (carrier : List Byte) (frame : BitSeq) (i : Nat) :
    (embedBits carrier frame)[i]? = carrier[i]?.map fun b => frame[i]?.elim b (embedByte b) := by
  induction carrier generalizing frame i with
  | nil => cases frame <;> rfl
  | cons b bs ih =>
    cases frame with
    | nil => simp [embedBits]
    | cons f fs =>
      cases i with
      | zero => rfl
      | succ i => simpa only [embedBits, List.getElem?_cons_succ] using ih fs i

/-- The spec's embedding of a frame element in plain numbers is `embedByte`'s. -/
theorem toNat_embedByte_eq_embedded (b : Byte) (bit : Bool) :
    (embedByte b bit).toNat = embedded b.toNat (bitValue bit) := by
  rw [toNat_embedByte]
  cases bit <;> simp [embedded, bitValue]

/-- A byte whose parity differs is changed (R180). -/
theorem toNat_embedByte_ne {b : Byte} {bit : Bool} (h : parityDiffers b bit = true) :
    (embedByte b bit).toNat ≠ b.toNat := by
  intro heq
  have hparity := toNat_embedByte_mod_two b bit
  rw [heq, ← bitValue_cellBit] at hparity
  simp [parityDiffers, bitValue_inj hparity] at h

/-- Embedding moves a byte by at most 1 and gives it the element's parity (R182). -/
theorem embedded_near {f : Nat} (hf : f ≤ 1) (b : Nat) :
    embedded b f ≤ b + 1 ∧ b ≤ embedded b f + 1 ∧ embedded b f % 2 = f := by
  unfold embedded
  split_ifs <;> omega

theorem frameElement_le (s : State) (i : Nat) : frameElement s i ≤ 1 := by
  unfold frameElement
  split <;> exact Nat.le_of_lt_succ (Nat.mod_lt _ two_pos)

/-! ## The loop of EMBED (R181) -/

/-- How many of the `n` bytes from address `a` on the second memory holds another number at. -/
def changedCount (m m' : Memory) (a n : Nat) : Nat :=
  ((Finset.range n).filter fun i =>
    (Memory.read m' (a + i)).toNat ≠ (Memory.read m (a + i)).toNat).card

theorem changedCount_succ (m m' : Memory) (a n : Nat) :
    changedCount m m' a (n + 1) =
      changedCount m m' (a + 1) n +
        if (Memory.read m' a).toNat ≠ (Memory.read m a).toNat then 1 else 0 := by
  simp only [changedCount, Finset.card_filter]
  rw [Finset.sum_range_succ']
  simp only [Nat.add_zero, Nat.add_assoc, Nat.add_comm 1]

theorem changedCount_congr {m₁ m₂ : Memory} (m' : Memory) {a n : Nat}
    (h : ∀ b, a ≤ b → Memory.read m₁ b = Memory.read m₂ b) :
    changedCount m₁ m' a n = changedCount m₂ m' a n := by
  simp only [changedCount, h _ (Nat.le_add_right a _)]

/-- The loop counts the bytes it changes. -/
theorem embedLoop_count {m : Memory} (hwf : Memory.wf m) (frame : BitSeq) (a : Nat) :
    (embedLoop frame a m).2 = changedCount m (embedLoop frame a m).1 a frame.length := by
  induction frame generalizing a m with
  | nil => rfl
  | cons f fs ih =>
    have hfirst : Memory.read (embedLoop (f :: fs) a m).1 a = embedByte (Memory.read m a) f :=
      read_embedLoop_inside hwf (i := 0) (by simp)
    rw [List.length_cons, changedCount_succ, hfirst]
    cases hd : parityDiffers (Memory.read m a) f with
    | false =>
      rw [embedByte_of_agrees hd, if_neg (not_not.2 rfl), embedLoop, hd]
      exact ih hwf (a + 1)
    | true =>
      have hrest := changedCount_congr (embedLoop (f :: fs) a m).1 (n := fs.length)
        fun b (hb : a + 1 ≤ b) =>
          (Memory.read_write_ne hwf (embedByte (Memory.read m a) f) (by omega : b ≠ a)).symm
      rw [hrest, if_pos (toNat_embedByte_ne hd), embedLoop, if_pos hd]
      exact congrArg (· + 1) (ih (Memory.write_wf hwf _ _) (a + 1))

/-- The carrier after the loop is `embedBits` of the carrier before (R181). -/
theorem readAll_embedLoop {m : Memory} (hwf : Memory.wf m) (frame : BitSeq) (a n : Nat) :
    Memory.readAll (embedLoop frame a m).1 a n = embedBits (Memory.readAll m a n) frame := by
  refine List.ext_getElem (by simp) fun i hi hi' => ?_
  have hn : i < (Memory.readAll m a n).length := by simpa using hi
  rw [← Option.some_inj, ← List.getElem?_eq_getElem hi', getElem?_embedBits,
    List.getElem?_eq_getElem hn, Option.map_some, Memory.getElem_readAll, Memory.getElem_readAll]
  by_cases hf : i < frame.length
  · rw [List.getElem?_eq_getElem hf, read_embedLoop_inside hwf hf, Option.elim_some]
  · rw [List.getElem?_eq_none (not_lt.1 hf), read_embedLoop_outside hwf (by omega),
      Option.elim_none]

/-! ## A command's success -/

theorem Succeeded.of_res1_eq {s t : State} {r0 r1 r1' r2 : Nat} (h : Succeeded s t r0 r1 r2)
    (h1 : r1 = r1') : Succeeded s t r0 r1' r2 :=
  h1 ▸ h

/-- A command that ended with code 0x00 did not fail a check that answers another code. -/
theorem Failed.not_check {s t : State} {p : Prop} [Decidable p] {P : Prop} {code : BitVec 8}
    {lengths : Option (Nat × Word)} (hok : statusErr t.status = 0x00)
    (h : if p then Failed s t code lengths else P) (hcode : code ≠ 0x00 := by decide) :
    ¬ p ∧ P := by
  by_cases hp : p
  · rw [if_pos hp] at h
    exact absurd (h.status.err.symm.trans hok) hcode
  · rw [if_neg hp] at h
    exact ⟨hp, h⟩

/-! ## The statements -/

/-- Settles O22: each byte is left alone or holds the frame bit of its index. -/
theorem embedBitsElements : Obligations.EmbedBitsElements := by
  refine fun carrier frame _ => ⟨length_embedBits carrier frame, fun i b hb => ?_⟩
  refine ⟨_, by rw [getElem?_embedBits, hb, Option.map_some], ?_⟩
  cases hf : frame[i]? with
  | none => simp
  | some f =>
    have hi : ¬ frame.length ≤ i := by simp [← List.getElem?_eq_none_iff, hf]
    rw [Option.elim_some, BitVec.toNat_eq, toNat_embedByte]
    cases f <;> simp +contextual [hi]

/-- Settles O23: past the checks the loop leaves the frame in the carrier. -/
theorem embedMeetsItsRule : Obligations.EmbedMeetsItsRule := by
  refine ⟨decode_encode .embed, fun s hwf => ?_⟩
  refine exec_meets_two rfl rfl (.check .rfl fun _ => .check .rfl fun hlen _ => ?_)
  have hbuf := s.bufLen.isLt
  have hF : s.payloadFrame.length = s.headerWidth + 8 * s.srcLen.toNat := s.length_payloadFrame
  refine ⟨?_, fun b hb => ?_, fun i hi => ?_, ?_⟩
  · have hcount := embedLoop_count_le s.payloadFrame s.bufAddr.toNat s.mem
    have hchanged := embedLoop_count hwf s.payloadFrame s.bufAddr.toNat
    rw [hF] at hchanged
    refine Succeeded.of_res1_eq ?_ hchanged
    exact s.finish_succeeded _ (by rw [State.frameLength]; omega) (by omega) (by omega)
  · exact read_embedLoop_outside hwf (hF ▸ hb)
  · have hi' : i < s.payloadFrame.length := hF ▸ hi
    rw [← s.bitValue_payloadFrame hi', ← toNat_embedByte_eq_embedded]
    exact congrArg BitVec.toNat (read_embedLoop_inside hwf hi')
  · exact readAll_embedLoop hwf _ _ _

/-- Settles O24: a success has passed every check of EMBED's rule, so its last clause holds. -/
theorem embedPerturbsMinimally : Obligations.EmbedPerturbsMinimally := by
  intro s t hwf h hok
  obtain ⟨-, hrule⟩ := embedMeetsItsRule
  obtain ⟨t', ht', hrule⟩ := hrule s hwf
  cases h.symm.trans ht'
  obtain ⟨-, hrule⟩ := Failed.not_check hok hrule
  obtain ⟨-, hrule⟩ := Failed.not_check hok hrule
  obtain ⟨-, hrule⟩ := Failed.not_check hok hrule
  obtain ⟨hlen, hsucc, hframe, hbytes, -⟩ := Failed.not_check hok hrule
  refine ⟨fun i hi => ?_, fun i hi _ => ?_, fun b hb => ?_, hsucc.frame.bufLen⟩
  · obtain ⟨hup, hdown, hparity⟩ :=
      embedded_near (frameElement_le s i) (byteAt s (s.bufAddr.toNat + i))
    rw [← hbytes i hi] at hup hdown hparity
    exact ⟨hup, hdown, hparity, Nat.le_of_lt_succ (BitVec.isLt _)⟩
  · exact congrArg BitVec.toNat (hframe _ (by omega))
  · exact congrArg BitVec.toNat (hframe b (by omega))

/-- Settles O25: the header fits and the capacity does not, so the body raises E_CAPACITY. -/
theorem capacityRejectionLeavesCarrier : Obligations.CapacityRejectionLeavesCarrier := by
  intro s hchecks hlen hheader
  have hbody : commandBody .embed s = .raise (.capacity s.frameLength s.bufLen) := by
    rw [← State.frameLength] at hlen
    rw [commandBody, bodyEmbed, if_neg hheader.not_ge, if_pos hlen]
  refine ⟨_, exec_eq .embed s, ?_⟩
  rw [State.runCommand_none _ hchecks, hbody]
  refine s.raise_failed (.capacity s.frameLength s.bufLen) fun req avail hreq => ?_
  cases hreq
  exact s.frameLength_le.trans_lt (by norm_num)

end Sys2Proof.Machine

/-! The Extractor of 44_extractor.md: the payload that the parities of the carrier spell, the rule of the
command (O26), what it writes as a function of the carrier (O27), and the round trip with EMBED (O28). -/

namespace Sys2Proof.Machine

open Sys2Proof

/-! ## The payload in the carrier's parities (R200) -/

/-- Byte `j` of the payload is spelled by the parities of 8 bytes of memory (R123, R124). -/
theorem toNat_getElem_bitsToBytes_extractLsb {m : Memory} {a n j : Nat}
    (h : j < (bitsToBytes (extractLsb (Memory.readAll m a n))).length) :
    (bitsToBytes (extractLsb (Memory.readAll m a n)))[j].toNat =
      ∑ i ∈ Finset.range 8, (Memory.read m (a + (8 * j + i))).toNat % 2 * 2 ^ (7 - i) := by
  have hj : j < n / 8 := by simpa using h
  rw [getElem_bitsToBytes, extractLsb, ← List.map_drop, ← List.map_take, Memory.drop_readAll,
    Memory.take_readAll _ _ (by omega), toNat_bitsToByte (by simp), headerValue_cellBit_readAll]
  simp only [Nat.add_assoc, Nat.reduceSub]

/-- The header value of the carrier in BUF, where the header fits. -/
theorem State.carrierHeader_readAll {s : State} (h : s.headerWidth ≤ s.bufLen.toNat) :
    carrierHeader (Memory.readAll s.mem s.bufAddr.toNat s.bufLen.toNat) s.headerWidth =
      s.bufHeader := by
  rw [carrierHeader, Memory.take_readAll _ _ h, State.bufHeader]

/-- The payload of the carrier in BUF, where all of it is available. -/
theorem State.extractPayload_readAll {s : State}
    (h : s.headerWidth + s.bufHeader ≤ s.bufLen.toNat) :
    extractPayload (Memory.readAll s.mem s.bufAddr.toNat s.bufLen.toNat) s.headerWidth =
      bitsToBytes (extractLsb
        (Memory.readAll s.mem (s.bufAddr.toNat + s.headerWidth) s.bufHeader)) := by
  rw [extractPayload, State.carrierHeader_readAll (by omega), Memory.drop_readAll,
    Memory.take_readAll _ _ (by omega)]

/-- Bytes that the carrier's parities spell in turn, as R201 says, are the payload of R200. -/
theorem readAll_eq_extractPayload {s t : State} {a : Nat}
    (h : s.headerWidth + s.bufHeader ≤ s.bufLen.toNat)
    (hbytes : ∀ j < s.bufHeader / 8, byteAt t (a + j) = ∑ i ∈ Finset.range 8,
      byteAt s (s.bufAddr.toNat + s.headerWidth + (8 * j + i)) % 2 * 2 ^ (7 - i)) :
    Memory.readAll t.mem a (s.bufHeader / 8) =
      extractPayload (Memory.readAll s.mem s.bufAddr.toNat s.bufLen.toNat) s.headerWidth := by
  rw [State.extractPayload_readAll h]
  refine List.ext_getElem (by simp) fun j hj hj' => BitVec.eq_of_toNat_eq ?_
  rw [Memory.getElem_readAll, toNat_getElem_bitsToBytes_extractLsb]
  exact hbytes j (by simpa using hj)

/-! ## Extraction undoes embedding (R202) -/

theorem extractLsb_take (bytes : List Byte) (k : Nat) :
    extractLsb (bytes.take k) = (extractLsb bytes).take k :=
  List.map_take

theorem extractLsb_drop (bytes : List Byte) (k : Nat) :
    extractLsb (bytes.drop k) = (extractLsb bytes).drop k :=
  List.map_drop

/-- A byte holds the frame bit embedded in it. -/
@[simp] theorem cellBit_embedByte (b : Byte) (bit : Bool) : cellBit (embedByte b bit) = bit :=
  bitValue_inj ((bitValue_cellBit _).trans (toNat_embedByte_mod_two b bit))

/-- The carrier's parities are the frame, and past it what they were. -/
theorem extractLsb_embedBits {carrier : List Byte} {frame : BitSeq}
    (h : frame.length ≤ carrier.length) :
    extractLsb (embedBits carrier frame) = frame ++ extractLsb (carrier.drop frame.length) := by
  induction frame generalizing carrier with
  | nil => cases carrier <;> rfl
  | cons f fs ih =>
    obtain _ | ⟨b, bs⟩ := carrier
    · simp at h
    have hrest := ih (carrier := bs) (by simpa using h)
    rw [embedBits, extractLsb, List.map_cons, cellBit_embedByte, ← extractLsb, hrest]
    rfl

section
variable {carrier payload : List Byte} {w : Nat}

/-- The parities of a carrier that holds a payload's frame: the header, the payload's bits, and what
stood past the frame (R161). -/
theorem extractLsb_embedBits_buildFrame (hcap : w + 8 * payload.length ≤ carrier.length) :
    extractLsb (embedBits carrier (buildFrame payload w)) =
      lengthHeaderBits (8 * payload.length) w ++ (bytesToBits payload ++
        extractLsb (carrier.drop (w + 8 * payload.length))) := by
  rw [extractLsb_embedBits (by simpa using hcap), length_buildFrame, buildFrame, List.append_assoc]

/-- The header read back is the payload's bit length. -/
theorem carrierHeader_embedBits (hcap : w + 8 * payload.length ≤ carrier.length)
    (hheader : 8 * payload.length < 2 ^ w) :
    carrierHeader (embedBits carrier (buildFrame payload w)) w = 8 * payload.length := by
  rw [carrierHeader, extractLsb_take, extractLsb_embedBits_buildFrame hcap,
    List.take_left' (length_lengthHeaderBits _ _), headerValue_lengthHeaderBits,
    Nat.mod_eq_of_lt hheader]

/-- The payload read back is the payload embedded. -/
theorem extractPayload_embedBits (hcap : w + 8 * payload.length ≤ carrier.length)
    (hheader : 8 * payload.length < 2 ^ w) :
    extractPayload (embedBits carrier (buildFrame payload w)) w = payload := by
  rw [extractPayload, carrierHeader_embedBits hcap hheader, extractLsb_take, extractLsb_drop,
    extractLsb_embedBits_buildFrame hcap, List.drop_left' (length_lengthHeaderBits _ _),
    List.take_left' (length_bytesToBits _), bitsToBytes_bytesToBits]

end

/-! ## What EMBED leaves in the carrier (R181) -/

/-- Past its checks, EMBED leaves in BUF the carrier with the payload's frame embedded (R181). -/
theorem readAll_of_exec_embed {s t : State} (hwf : Memory.wf s.mem)
    (hcap : s.headerWidth + 8 * s.srcLen.toNat ≤ s.bufLen.toNat)
    (hheader : 8 * s.srcLen.toNat < 2 ^ s.headerWidth)
    (hsrc : ¬ OutOfRange s s.srcAddr s.srcLen) (hbuf : ¬ OutOfRange s s.bufAddr s.bufLen)
    (hover : ¬ Overlap s.srcAddr s.srcLen s.bufAddr s.bufLen) (h : exec .embed s = .next t) :
    Memory.readAll t.mem s.bufAddr.toNat s.bufLen.toNat =
      embedBits (Memory.readAll s.mem s.bufAddr.toNat s.bufLen.toNat)
        (buildFrame (Memory.readAll s.mem s.srcAddr.toNat s.srcLen.toNat) s.headerWidth) := by
  obtain ⟨-, hrule⟩ := embedMeetsItsRule
  obtain ⟨t', ht', hrule⟩ := hrule s hwf
  cases h.symm.trans ht'
  rw [if_neg (not_or.2 ⟨hsrc, hbuf⟩), if_neg hover, if_neg hheader.not_ge,
    if_neg hcap.not_gt] at hrule
  obtain ⟨-, -, -, hcarrier⟩ := hrule
  exact hcarrier

/-! ## The statements -/

/-- Settles O26: past the checks the payload in the carrier's parities is written. -/
theorem extractMeetsItsRule : Obligations.ExtractMeetsItsRule := by
  refine ⟨decode_encode .extract, fun s hwf => ?_⟩
  rw [← s.bufHeader_eq_parityNumber]
  refine exec_meets_two rfl rfl (.check .rfl fun _ => .check .rfl fun _ => .check .rfl fun _ => ?_)
  have hL : s.bufHeader < 2 ^ 32 := s.bufHeader_lt.trans_le s.two_pow_headerWidth_le
  refine .finish_writeAll hwf (by simp) (by omega) hL (by omega) fun t ht j hj => ?_
  rw [ht j (by simpa using hj), toNat_getElem_bitsToBytes_extractLsb]

/-- Settles O27: a success has passed every check of EXTRACT's rule, so the bytes of its last clause are
written, and they are the payload. -/
theorem extractWritesExtractPayload : Obligations.ExtractWritesExtractPayload := by
  intro s t hwf h hok
  obtain ⟨-, hrule⟩ := extractMeetsItsRule
  obtain ⟨t', ht', hrule⟩ := hrule s hwf
  cases h.symm.trans ht'
  rw [← s.bufHeader_eq_parityNumber] at hrule
  obtain ⟨-, hrule⟩ := Failed.not_check hok hrule
  obtain ⟨-, hrule⟩ := Failed.not_check hok hrule
  obtain ⟨-, hrule⟩ := Failed.not_check hok hrule
  obtain ⟨havail, hrule⟩ := Failed.not_check hok hrule
  obtain ⟨-, hsucc, -, hbytes⟩ := Failed.not_check hok hrule
  rw [hsucc.res0]
  exact readAll_eq_extractPayload (not_lt.1 havail) hbytes

/-- Past its checks, EXTRACT succeeds and leaves the carrier's payload in DST (R200, R201). -/
theorem exec_extract_succeeds {s : State} (hwf : Memory.wf s.mem)
    (hbuf : ¬ OutOfRange s s.bufAddr s.bufLen) (hdst : ¬ OutOfRange s s.dstAddr s.dstLen)
    (hover : ¬ Overlap s.bufAddr s.bufLen s.dstAddr s.dstLen)
    (havail : s.headerWidth + s.bufHeader ≤ s.bufLen.toNat)
    (hsmall : s.bufHeader / 8 ≤ s.dstLen.toNat) :
    ∃ t, exec .extract s = .next t ∧
      Succeeded s t (s.bufHeader / 8) s.bufHeader (s.bufHeader % 8) ∧
      Memory.readAll t.mem s.dstAddr.toNat (s.bufHeader / 8) =
        extractPayload (Memory.readAll s.mem s.bufAddr.toNat s.bufLen.toNat) s.headerWidth := by
  obtain ⟨-, hrule⟩ := extractMeetsItsRule
  obtain ⟨t, ht, hrule⟩ := hrule s hwf
  rw [← s.bufHeader_eq_parityNumber, if_neg (not_or.2 ⟨hbuf, hdst⟩), if_neg hover,
    if_neg (by omega), if_neg havail.not_gt, if_neg hsmall.not_gt] at hrule
  obtain ⟨hsucc, -, hbytes⟩ := hrule
  exact ⟨t, ht, hsucc, readAll_eq_extractPayload havail hbytes⟩

/-- Settles O28: EMBED leaves the frame in the carrier's parities, so that EXTRACT reads back the
payload's bit length, passes its checks, and writes the payload. -/
theorem embedThenExtractRoundTrip : Obligations.EmbedThenExtractRoundTrip := by
  intro s t u hwf hwfu hcap hheader hsrc hbuf hover h hw haddr hlen hsize hcarrier hsmall hdst hoveru
  have hread : Memory.readAll u.mem u.bufAddr.toNat u.bufLen.toNat =
      embedBits (Memory.readAll s.mem s.bufAddr.toNat s.bufLen.toNat)
        (buildFrame (Memory.readAll s.mem s.srcAddr.toNat s.srcLen.toNat) s.headerWidth) := by
    rw [haddr, hlen, ← readAll_of_exec_embed hwf hcap hheader hsrc hbuf hover h]
    exact Memory.readAll_congr fun k hk => BitVec.eq_of_toNat_eq (hcarrier k hk)
  have hL : u.bufHeader = 8 * s.srcLen.toNat := by
    rw [← State.carrierHeader_readAll (by rw [hw, hlen]; omega), hread, hw,
      carrierHeader_embedBits (by simpa using hcap) (by simpa using hheader), Memory.length_readAll]
  have hdiv : u.bufHeader / 8 = s.srcLen.toNat := by omega
  have havail : u.headerWidth + u.bufHeader ≤ u.bufLen.toNat := by rwa [hw, hL, hlen]
  have hbufu : ¬ OutOfRange u u.bufAddr u.bufLen := by rwa [OutOfRange, hsize, haddr, hlen]
  obtain ⟨v, hv, hsucc, hpayload⟩ :=
    exec_extract_succeeds hwfu hbufu hdst hoveru havail (hdiv ▸ hsmall)
  rw [hdiv, hL, Nat.mul_mod_right] at hsucc
  rw [hdiv, hread, hw,
    extractPayload_embedBits (by simpa using hcap) (by simpa using hheader)] at hpayload
  exact ⟨v, hv, hsucc, hpayload⟩

end Sys2Proof.Machine

/-! Errors and faults of 60_exceptions.md: how long the error record lives (O41), the mark `fault` over a
step (O43), and a block with nothing to do (O44). -/

namespace Sys2Proof.Machine

open Sys2Proof

/-! ## Rest -/

theorem restStep_of_marked {s : State} {m : FaultMark} (h : s.fault = some m) :
    restStep s = .fault (.marked m) := by
  rw [restStep, h]

theorem restStep_of_fault_none {s : State} (h : s.fault = none) : restStep s = .next s := by
  rw [restStep, h]

/-- With the host's queue empty, either the core moves or the block rests (R104). -/
theorem step_eq_restStep {s : State} (hqueue : s.hostQueue = []) (hcore : ¬ CoreTurn s) :
    step s = restStep s := by
  rcases step_cases s with ⟨hc, -⟩ | ⟨a, rest, ⟨hne, -⟩, -⟩ | ⟨-, -, hs⟩
  · exact absurd hc hcore
  · simp [hqueue] at hne
  · exact hs

/-! ## A step under the mark `fault` -/

theorem not_coreTurn_of_fault {s : State} (h : s.fault ≠ none) : ¬ CoreTurn s :=
  fun ⟨_, hnone, _⟩ => h hnone

/-- Every step of a faulted state is the host's (R104, R232). -/
theorem hostTurn_of_step_of_fault {s t : State} (hf : s.fault ≠ none) (h : step s = .next t) :
    ∃ a rest, HostTurn s a rest ∧ hostAct a (s.takeAction rest) = .next t := by
  rcases step_cases s with ⟨hc, -⟩ | ⟨a, rest, hh, hs⟩ | ⟨-, -, hs⟩
  · exact absurd hc (not_coreTurn_of_fault hf)
  · exact ⟨a, rest, hh, hs.symm.trans h⟩
  · obtain ⟨m, hm⟩ := Option.ne_none_iff_exists'.1 hf
    rw [h, restStep_of_marked hm] at hs
    cases hs

/-- No action of the host clears the mark, a reset included (R232, R250). -/
theorem hostAct_keeps_fault {a : HostAction} {s t : State} (hf : s.fault ≠ none)
    (h : hostAct a s = .next t) : t.fault ≠ none := by
  rcases hostAct_cases h with
    ⟨m, rfl⟩ | ⟨d, q, rfl⟩ | ⟨off, v, -, rfl⟩ | ⟨b, v, -, -, -, rfl⟩ | ⟨-, rfl⟩
  · exact Option.some_ne_none m
  · exact hf
  · obtain ⟨-, -, hkept, -⟩ := s.writeOffset_frame off v
    rwa [hkept]
  · exact hf
  · split <;> exact hf

/-! ## The error record -/

theorem State.writeOffset_errorRecord (off : BitVec 8) (v : Word) (s : State) :
    (s.writeOffset off v).errReq = s.errReq ∧ (s.writeOffset off v).errAvail = s.errAvail := by
  obtain ⟨-, -, -, -, -, -, -, -, -, -, havail⟩ := s.writeOffset_frame off v
  exact ⟨State.writeOffset_errReq off v s, havail⟩

theorem State.errorRecord_of_readReg_eq {s t : State} (h : ∀ r, t.readReg r = s.readReg r) :
    t.errReq = s.errReq ∧ t.errAvail = s.errAvail := by
  have hlo : t.errReqLo = s.errReqLo := h .errReqLo
  have hhi : t.errReqHi = s.errReqHi := h .errReqHi
  exact ⟨by rw [State.errReq, hlo, hhi, State.errReq], h .errAvail⟩

/-! ## The statements -/

/-- Settles O41: a completion records lengths only for the three codes, and of the host's actions only a
reset writes the record. -/
theorem errorRecordPersists : Obligations.ErrorRecordPersists := by
  intro s t h hchanged
  rw [Ne, Ne, ← not_and_or] at hchanged
  rcases step_register_cases h with
    ⟨hc, e, -, rfl⟩ | ⟨-, m, r0, r1, r2, rfl⟩ | ⟨rest, off, v, -, rfl⟩ | ⟨rest, hh, -⟩ | hk
  · refine .inr ⟨hc, ?_⟩
    rw [State.raise_status, statusErr_complete]
    by_contra hcode
    exact hchanged (raise_errReq_of_none (errorLengths_eq_none hcode) s)
  · exact absurd ⟨rfl, rfl⟩ hchanged
  · exact absurd (State.writeOffset_errorRecord off v (s.takeAction rest)) hchanged
  · exact .inl ⟨rest, hh⟩
  · exact absurd (State.errorRecord_of_readReg_eq hk) hchanged

/-- Settles O43: the step is the host's, which keeps the mark, and while busy only a reset ends the
command or writes `CMD`. -/
theorem faultIsNeverCleared : Obligations.FaultIsNeverCleared := by
  intro s t h hf
  obtain ⟨a, rest, hh, hact⟩ := hostTurn_of_step_of_fault hf h
  refine ⟨hostAct_keeps_fault (s := s.takeAction rest) hf hact, fun hbusy => ?_⟩
  by_cases hreset : a = .assertReset
  · exact .inr ⟨rest, hreset ▸ hh⟩
  · obtain ⟨hstays, -⟩ := hostAct_keeps_owned (s := s.takeAction rest) hbusy hreset hact
    obtain ⟨hframe, -⟩ := registersFrozenWhileBusy s t a rest hbusy hh hreset h
    exact .inl ⟨hstays, by rw [hframe]⟩

/-- Settles O44: neither the core nor the host has a step, so the block rests. -/
theorem restingBlock : Obligations.RestingBlock := by
  intro s hqueue
  refine ⟨fun hidle hnone => ?_, fun m hm => ?_⟩
  · have hcore : ¬ CoreTurn s := fun ⟨hbusy, _⟩ => by simp [hidle] at hbusy
    exact (step_eq_restStep hqueue hcore).trans (restStep_of_fault_none hnone)
  · have hcore : ¬ CoreTurn s := not_coreTurn_of_fault (hm ▸ Option.some_ne_none m)
    exact (step_eq_restStep hqueue hcore).trans (restStep_of_marked hm)

end Sys2Proof.Machine

/-! Reset and hazards of 70_reset_and_hazards.md: a waiting host polls until the core step (O42), what a
reset at any time leaves (O46), and the invariants right after reset (O49). -/

namespace Sys2Proof.Machine

open Sys2Proof

/-! ## A host that waits (R262) -/

theorem core_run_succ_of_step {s t : State} (h : step s = .next t) (k : Nat) :
    Host.Core.run core (k + 1) s = Host.Core.run core k t := by
  have hcore : core.step s = .next t := h
  simp only [Host.Core.run, hcore]

/-- While busy, a turn of WAIT leaves the host waiting: it spends one of the polls, and only the value
read is new (R87). -/
theorem step_waitIdle_busy {s : State} {rest : List HostAction} (hh : HostTurn s .waitIdle rest)
    (hbusy : s.busy = true) :
    step s = .next { s with coreWait := s.coreWait - 1, readData := s.status } := by
  have hstatus : statusBusy (s.takeAction rest).status = true := hbusy
  have hqueue : s.hostQueue = .waitIdle :: rest := hh.1
  refine hh.step_eq.trans ((hostWait_eq _).trans ?_)
  rw [if_pos hstatus, State.takeAction_hostQueue, ← hqueue]
  rfl

/-- The polls before the core step, up to the drawn number of them. -/
theorem core_run_waitIdle {s : State} {rest : List HostAction} {n : Nat} (hbusy : s.busy = true)
    (hqueue : s.hostQueue = .waitIdle :: rest) (hn : n ≤ s.coreWait) :
    ∃ d, Host.Core.run core n s = .next { s with coreWait := s.coreWait - n, readData := d } := by
  induction n generalizing s with
  | zero => exact ⟨s.readData, rfl⟩
  | succ n ih =>
    have hh : HostTurn s .waitIdle rest := ⟨hqueue, .inr (.inr (by omega))⟩
    obtain ⟨d, hd⟩ := ih (s := { s with coreWait := s.coreWait - 1, readData := s.status })
      hbusy hqueue (Nat.le_sub_one_of_lt hn)
    refine ⟨d, ?_⟩
    rw [core_run_succ_of_step (step_waitIdle_busy hh hbusy), hd, Nat.sub_sub, Nat.add_comm 1 n]

/-! ## The region a dropped command may have written (R252) -/

theorem State.droppedRegion_of_decode {s : State} {i : Instr} (h : decode s.cmd = .ok i) :
    s.droppedRegion = s.writtenRegion i := by
  rw [State.droppedRegion, h, State.writtenRegion]

@[simp] theorem State.droppedRegion_takeAction (rest : List HostAction) (s : State) :
    (s.takeAction rest).droppedRegion = s.droppedRegion := by
  unfold State.droppedRegion
  rw [State.takeAction_cmd]
  cases decode s.cmd with
  | error _ => rfl
  | ok i => cases i <;> rfl

/-- The words of the seven commands that write DST (R82, R108). -/
theorem State.droppedRegion_eq_dst {s : State}
    (h : s.cmd.toNat ∈ [0x01, 0x03, 0x04, 0x05, 0x06, 0x07, 0x0A]) :
    s.droppedRegion = s.dstRegion := by
  obtain ⟨i, hi⟩ : ∃ i, decode s.cmd = .ok i := by
    simp only [List.mem_cons, List.not_mem_nil, or_false] at h
    rw [exists_decode_iff]
    omega
  rw [(decode_eq_ok_iff s.cmd i).1 hi] at h
  rw [State.droppedRegion_of_decode hi]
  apply State.writtenRegion_eq_dst <;> rintro rfl <;> exact absurd h (by decide)

theorem State.droppedRegion_eq_buf {s : State} (h : s.cmd.toNat = 0x09) :
    s.droppedRegion = s.bufRegion :=
  State.droppedRegion_of_decode ((decode_eq_ok_iff s.cmd .embed).2 h)

/-- BITSTOBYTE, PARSEHEADER and an illegal word write nothing (R84, R108). -/
theorem State.droppedRegion_eq_empty {s : State}
    (h : s.cmd.toNat ∉ [0x01, 0x03, 0x04, 0x05, 0x06, 0x07, 0x09, 0x0A]) :
    s.droppedRegion = ⟨0, 0⟩ := by
  cases hd : decode s.cmd with
  | error _ => rw [State.droppedRegion, hd]
  | ok i =>
    rw [State.droppedRegion_of_decode hd]
    rw [(decode_eq_ok_iff s.cmd i).1 hd] at h
    cases i with
    | bitstobyte | parseheader => rfl
    | _ => exact absurd (by decide) h

/-! ## The host's reset (R250, R252) -/

@[simp] theorem busy_resetRegs (s : State) : s.resetRegs.busy = false := by
  have hzero : statusBusy 0 = false := by decide
  exact hzero

theorem scramble_memoryFrame {s : State} (hwf : Memory.wf s.mem) :
    MemoryFrame s s.scramble s.droppedRegion.addr s.droppedRegion.len := by
  intro b hb
  exact (Memory.writeAll_writtenIn s.mem (r := s.droppedRegion) (by simp [Region.bytesIn])).outside
    hwf b (by simp only [Region.holds]; omega)

theorem scramble_mem_of_empty {s : State} (h : s.droppedRegion = ⟨0, 0⟩) :
    s.scramble.mem = s.mem := by
  simp [State.scramble, h, Region.bytesIn]

theorem hostAct_assertReset_idle {s : State} (h : s.busy = false) :
    hostAct .assertReset s = .next s.resetRegs := by
  simp [hostAct, hostReset, h]

theorem hostAct_assertReset_busy {s : State} (h : s.busy = true) :
    hostAct .assertReset s = .next s.scramble.resetRegs := by
  simp [hostAct, hostReset, h]

/-! ## The statements -/

/-- Settles O42: after all the polls the wait allows, none is left and the core moves. -/
theorem waitReachesCoreStep : Obligations.WaitReachesCoreStep := by
  intro s rest hbusy hnone hqueue
  obtain ⟨d, hrun⟩ := core_run_waitIdle hbusy hqueue le_rfl
  have hcore : CoreTurn { s with coreWait := s.coreWait - s.coreWait, readData := d } :=
    ⟨hbusy, hnone, .inr (Nat.sub_self _)⟩
  exact ⟨s.coreWait, le_rfl, _, hrun, hcore, rfl, hcore.step_eq⟩

/-- Settles O46: an idle reset writes registers only, and a busy one also the dropped command's written
region, which its word determines. -/
theorem hostResetStep : Obligations.HostResetStep := by
  intro s rest hwf hh
  cases hb : s.busy with
  | false =>
    have hstep := hh.step_eq.trans (hostAct_assertReset_idle (s := s.takeAction rest) hb)
    exact ⟨_, hstep, rfl, busy_resetRegs _, rfl, rfl, rfl, fun _ => rfl, nofun⟩
  | true =>
    have hstep := hh.step_eq.trans (hostAct_assertReset_busy (s := s.takeAction rest) hb)
    have hframe := scramble_memoryFrame (s := s.takeAction rest) hwf
    rw [State.droppedRegion_takeAction] at hframe
    refine ⟨_, hstep, rfl, busy_resetRegs _, rfl, rfl, rfl, nofun, fun _ =>
      ⟨fun hdst => ?_, fun hbuf => ?_, fun hnothing => ?_⟩⟩
    · rwa [State.droppedRegion_eq_dst hdst] at hframe
    · rwa [State.droppedRegion_eq_buf hbuf] at hframe
    · exact scramble_mem_of_empty
        ((State.droppedRegion_takeAction rest s).trans (State.droppedRegion_eq_empty hnothing))

/-- Settles O49: launch memory is canonical and below MEM_SIZE, and the registers are those that a reset
of any state leaves. -/
theorem resetMeetsInvariants : Obligations.ResetMeetsInvariants :=
  ⟨⟨launchMemory_wf _ _, fun _ hc => (mem_launchMemory.1 hc).1, Nat.le_of_lt_succ Config.memSize.isLt⟩,
    State.reset.registersOk_resetRegs⟩

end Sys2Proof.Machine
